-- ==== Sys2Proof/Word.lean ====
section
/-! DEFINITION. The word type and the data formats of 30_encoding.md Part A. -/

namespace Sys2Proof

/-- A `u32`: a command word, a register, a timestamp or a PlaybackBuffer element (R61, R100). -/
abbrev Word := BitVec 32

/-- A key is only ever compared for equality (R95). In the register binding it travels as an unsigned
24-bit handle; `Instr.WF` says which keys have one. -/
abbrev Key := Nat

/-- A pulse sequence in microseconds, element 0 a mark (R90): the format of a frame and of an
AveragedCode. -/
abbrev Code := List Nat

/-- The finite partial map `Key ⇀ seq<ℕ>` (R34, R93), in one canonical form: keys strictly rising. -/
abbrev Store := List (Nat × Code)

/-- The content of the persistent file (R38). `malformed` is a file that is not a mapping from keys to
sequences of non-negative integers (R93, R228). -/
inductive FileContent where
  | absent
  | malformed
  | mapping (m : Store)
deriving DecidableEq, Repr, Inhabited

end Sys2Proof
end

