-- ==== Sys2Proof/Syntax.lean ====
section
/-! DEFINITION. The ten host commands, one constructor per row of spec/opcode_table.json (R101). -/

namespace Sys2Proof

inductive Instr where
  /-- `CAPTURE k` (R120). -/
  | capture (k : Key)
  /-- `TXNB k` (R170). -/
  | txnb (k : Key)
  /-- `TXB k` (R204). -/
  | txb (k : Key)
  /-- `LATENCY` (R176). -/
  | latency
  /-- `CONFIG a`, `a` = active-low (R178). -/
  | config (a : Bool)
  /-- `DELETE k` (R220). -/
  | delete (k : Key)
  /-- `KEYS` (R222). -/
  | keys
  /-- `INSPECT k` (R224). -/
  | inspect (k : Key)
  /-- `LOAD` (R226). -/
  | load
  /-- `SAVE` (R228). -/
  | save
deriving DecidableEq, Repr

end Sys2Proof
end

