-- ==== Sys2Proof/WellFormed.lean ====
section
/-! DEFINITION. Which commands the register binding can carry: a key travels as a 24-bit handle
(30_encoding.md R95, R106). The other operands are well formed by their type. -/

namespace Sys2Proof

/-- The key has a 24-bit handle. -/
def keyHasHandle (k : Nat) : Bool := decide (k < 2 ^ 24)

/-- The command has an encoding (R101). -/
def Instr.wf : Instr → Bool
  | .capture k => keyHasHandle k
  | .txnb k => keyHasHandle k
  | .txb k => keyHasHandle k
  | .latency => true
  | .config _ => true
  | .delete k => keyHasHandle k
  | .keys => true
  | .inspect k => keyHasHandle k
  | .load => true
  | .save => true

end Sys2Proof
end

