-- ==== Sys2Proof/Decode.lean ====
section
/-! DEFINITION. The command word (30_encoding.md R100, R101, R106, R107): fields, decoder, encoder. -/

namespace Sys2Proof

/-- Why a word selects no command (R107). -/
inductive DecodeError where
  /-- `OP = 0x00` or `OP` in `0x0B .. 0xFF`. -/
  | noSuchOpcode
  /-- `LATENCY`, `KEYS`, `LOAD` or `SAVE` with `ARG ≠ 0`. -/
  | argNotZero
  /-- `CONFIG` with `ARG[23:1] ≠ 0`. -/
  | configReservedBits
deriving DecidableEq, Repr

/-- `OP`, bits 31:24 (R100). -/
def opField (w : Word) : Nat := w.toNat / 2 ^ 24

/-- `ARG`, bits 23:0 (R100). -/
def argField (w : Word) : Nat := w.toNat % 2 ^ 24

/-- A command without operand: every bit of `ARG` is a literal 0 of the pattern (R101). -/
def decodeNullary (i : Instr) (arg : Nat) : Except DecodeError Instr :=
  if arg = 0 then .ok i else .error .argNotZero

/-- `CONFIG a`: `ARG[0] = a`, `ARG[23:1] = 0` (R101). -/
def decodeConfig (arg : Nat) : Except DecodeError Instr :=
  if arg / 2 = 0 then .ok (.config (arg % 2 == 1)) else .error .configReservedBits

/-- The decoder of R101. -/
def decode (w : Word) : Except DecodeError Instr :=
  match opField w with
  | 0x01 => .ok (.capture (argField w))
  | 0x02 => .ok (.txnb (argField w))
  | 0x03 => .ok (.txb (argField w))
  | 0x04 => decodeNullary .latency (argField w)
  | 0x05 => decodeConfig (argField w)
  | 0x06 => .ok (.delete (argField w))
  | 0x07 => decodeNullary .keys (argField w)
  | 0x08 => .ok (.inspect (argField w))
  | 0x09 => decodeNullary .load (argField w)
  | 0x0A => decodeNullary .save (argField w)
  | _ => .error .noSuchOpcode

/-- `OP` of each command (R101). -/
def opcode : Instr → Nat
  | .capture _ => 0x01
  | .txnb _ => 0x02
  | .txb _ => 0x03
  | .latency => 0x04
  | .config _ => 0x05
  | .delete _ => 0x06
  | .keys => 0x07
  | .inspect _ => 0x08
  | .load => 0x09
  | .save => 0x0A

/-- `ARG` of each command (R101). -/
def argument : Instr → Nat
  | .capture k => k
  | .txnb k => k
  | .txb k => k
  | .latency => 0
  | .config a => a.toNat
  | .delete k => k
  | .keys => 0
  | .inspect k => k
  | .load => 0
  | .save => 0

/-- The encoder: `OP ‖ ARG` (R100). Meant for well-formed commands. -/
def encode (i : Instr) : Word := BitVec.ofNat 32 (opcode i * 2 ^ 24 + argument i)

/-- The word whose low `nbits` bits are those of `w` and whose other bits are 0. Words are 32 bits (R100),
so more bits than that are none. -/
def tableWord (nbits w : Nat) : Option Word :=
  if nbits ≤ 32 then some (BitVec.ofNat 32 (w % 2 ^ nbits)) else none

/-- The command the decoder reads from the opcode-table word `w` of `nbits` bits. A word is one whole
32-bit register write: there is no byte order (R62). -/
def decodeTableWord (nbits w : Nat) : Option Instr :=
  match tableWord nbits w with
  | some word => (decode word).toOption
  | none => none

end Sys2Proof
end

