-- ==== Sys2Proof/Config.lean ====
section
/-! DEFINITION. The implementation parameters (00_scope.md R7 to R9) and the free values, constants
without a body that stand for what the spec leaves unspecified (70_reset_and_hazards.md R301). -/

namespace Sys2Proof

/-- The two execution strategies of a nonblocking transmission (R8, R170). -/
inductive Strategy where
  | callback
  | generator
deriving DecidableEq, Repr

/-- The parameters fixed before reset is released (R43). `ROUND_TIES` is half-to-even for every
configuration (R15), so it is no field. -/
structure Config where
  /-- `NEDGES`, the capacity of the EdgeTimeline (R7). -/
  nedges : Nat
  /-- `REPS`, the repeat count (R7). -/
  reps : Nat
  /-- The exponent of `TICKS_PERIOD`: `P = 2 ^ periodLog2`, a power of two by its form (R8). -/
  periodLog2 : Nat
  strategy : Strategy
  /-- `GEN_NATIVE_LOOP` (R8). -/
  genNativeLoop : Bool
  /-- `GEN_ACTIVE_LOW_OK` (R8). -/
  genActiveLowOk : Bool
  /-- `FIRST_DELAY`, microseconds (R173). -/
  firstDelay : Word
  /-- `MRC_BASE`, the address of the register window (R67). -/
  mrcBase : Nat
deriving DecidableEq, Repr

/-- `MIN_FRAMES` (R7). -/
def minFrames : Nat := 5

/-- `LATENCY_EXTRA`, the `+ 2` of the latency formula (R7). -/
def latencyExtra : Nat := 2

/-- The clock modulus `P` (R8, R124). -/
def Config.period (c : Config) : Nat := 2 ^ c.periodLog2

/-- The bounds on the arguments: R9, R281, and R102 for the two that are shown in 32-bit registers. -/
def Config.valid (c : Config) : Bool :=
  decide (3 ≤ c.nedges ∧ c.nedges < 2 ^ 32 ∧ 1 ≤ c.reps ∧ c.reps < 2 ^ 32 ∧
    2 ≤ c.periodLog2 ∧ c.periodLog2 ≤ 32)

/-- DESIGN CHOICE, log 4, unsafe: the configuration of `State.reset`. `NEDGES`, `P` and `FIRST_DELAY`
are the spec's defaults (R7, R8); the others have none. -/
def Config.default : Config where
  nedges := 800
  reps := 3
  periodLog2 := 32
  strategy := .callback
  genNativeLoop := false
  genActiveLowOk := false
  firstDelay := 0
  mrcBase := 0

/-- Free value, log 7, safe: element `i` of `PB` after the re-size of a `LOAD` (R226, R301). -/
opaque Config.freePbWord (draw i : Nat) : Word

/-- Free value, log 8, safe: what `FILE` holds after a failed `SAVE` (R228, R301). -/
opaque Config.freeFile (draw : Nat) : FileContent

/-- Free value, log 9, safe: `CAP_RESULT.quality` of a failed capture (R28, R301). -/
opaque Config.freeVariances (draw : Nat) : List Rat

/-- Free value, log 22, safe: what stands for element `i` of `ET` after the capture that wrote it has
returned (R301), to be taken modulo `P` (R24). -/
opaque Config.freeStamp (draw i : Nat) : Word

/-- Free value, log 22, safe: element `i` of `GS` after its capture has returned (R301), non-negative and
within i32 (R26). -/
opaque Config.freeGap (draw i : Nat) : BitVec 31

/-- Free value, log 22, safe: `THR` after its capture has returned (R301). -/
opaque Config.freeThreshold (draw : Nat) : Nat

/-- Free value, log 22, safe: `FRAMES` after its capture has returned (R301). -/
opaque Config.freeFrames (draw : Nat) : List Code

/-- Free value, log 22, safe: `TIMER_DUR` once the timer is no longer armed (R301). -/
opaque Config.freeDuration (draw : Nat) : Word

/-- Free value, log 20, safe: `INDEX` where a `LOAD` has shrunk the buffer below it (R22, R301), to be
taken modulo `PB_CAP`. -/
opaque Config.freeIndex (draw : Nat) : Nat

end Sys2Proof
end

