-- ==== Sys2Proof/Machine/State.lean ====
section
/-! DEFINITION. The state of MRC (10_state.md R21), the reasons a step can stop, and reset (R44).
The INVENTORY's State list names each field's rule. -/

namespace Sys2Proof.Machine

/-- The error kinds and their numbers (60_exceptions.md R240). -/
inductive ErrorKind where
  | none
  | captureTooFewFrames
  | unknownKey
  | storeIOError
  | unsupportedPolarity
  /-- Reserved: no operation of MRC raises it (R245). -/
  | unsupportedPlatform
  | generatorRejected
  | illegalCommand
deriving DecidableEq, Repr

/-- `CAP_PHASE` (R23). -/
inductive CapPhase where
  | idle
  | sampling
  | reducing
deriving DecidableEq, Repr

/-- `PSTATE` (R22). -/
inductive PState where
  | idle
  | running
deriving DecidableEq, Repr

/-- `CAP_RESULT` (R28). `variances` stands for `quality`: it is the rational vector `sd[i]^2`, of whose
square roots `quality` is the mean (R150; log 11). -/
structure CapResult where
  ok : Bool
  error : ErrorKind
  framesTotal : Nat
  framesKept : Nat
  discarded : Nat
  variances : List Rat
deriving DecidableEq, Repr

/-- An error with its information (R247): what `raise E(info)` returns to the caller. -/
inductive Raised where
  | captureTooFewFrames (r : CapResult)
  | unknownKey (k : Nat)
  | storeIO
  | unsupportedPolarity
  | generatorRejected
  | illegalCommand
deriving DecidableEq, Repr

/-- The model's own, log 13: what the last ended command returned to its caller (R102, R247).
`keys` stands for a set: its order means nothing (R222). -/
inductive Ret where
  | none
  | done
  | captured (r : CapResult)
  | latency (ms : Rat)
  | keys (ks : List Nat)
  | code (c : Code)
  | raised (x : Raised)
deriving DecidableEq, Repr

/-- The model's own, log 12: one PinWrite event and the duration in microseconds scheduled or slept
after it, if any (R65, R75). -/
structure PinEvent where
  level : Bool
  held : Option Nat
deriving DecidableEq, Repr

/-- The model's own, log 16: the `TXB` that is sleeping, its code and the position `j` at which R204's loop
goes on when the sleep is over. -/
structure TxbRun where
  code : Code
  pos : Nat
deriving DecidableEq, Repr

/-- A host access of `bytes` bytes at `addr` (R102). -/
inductive HostAccess where
  | write (addr bytes : Nat) (data : Word)
  | read (addr bytes : Nat)
deriving DecidableEq, Repr

/-- What ENV may do in one turn (R17, R39; log 23). -/
inductive EnvEvent where
  /-- Drive the capture pin: the next `PinRead()` gives `level`. -/
  | driveRx (level : Bool)
  /-- Let `us` microseconds pass on the clock. -/
  | advanceClock (us : Nat)
  /-- Decide whether file accesses fail from now on. -/
  | setMedium (readable writable : Bool)
  /-- Put another content into the persistent file, which belongs to a collaborator (R38, R230). -/
  | setFile (f : FileContent)
  /-- Decide whether the generator backend rejects waveforms from now on. -/
  | setGenAccepts (accepts : Bool)
deriving DecidableEq, Repr

/-- Who takes the next step (R17, R280; log 1). -/
inductive Turn where
  | host
  | sampler
  | timer
  | gen
  | env (e : EnvEvent)
  | reset
deriving DecidableEq, Repr

/-- The stuck accesses of 20_memory.md R63: an index outside its space, for which the spec has no step.
No run from reset reaches one. Safe: the model stops where the spec gives nothing. -/
inductive Fault where
  /-- Raised by a sampler step or the reduction: `ET` has no such element. Safe. -/
  | etBounds (i : Nat)
  /-- Raised by the buffer build or a timer fire: `PB` has no such element. Safe. -/
  | pbBounds (i : Nat)
  /-- Raised by a generator step: `GEN_WAVE` has no such element. Safe. -/
  | genBounds (i : Nat)
deriving DecidableEq, Repr

/-- Runs the spec gives no meaning (60_exceptions.md R257; the list is 70_reset_and_hazards.md R292).
Safe: a refusal proves nothing. -/
inductive Refusal where
  /-- Raised by an arm of `exec` without a meaning. Safe. -/
  | notModelled (mnemonic : String)
  /-- Raised by every step of a configuration outside the bounds (R9, R281). Safe. -/
  | badConfig
  /-- Raised by `TXNB`, `TXB`, `CONFIG`, `LOAD`, `CAPTURE` while `STATUS.RUNNING = 1` (R292). Safe. -/
  | transmissionRunning
  /-- Raised by any command while the host is inside `CAPTURE` or `TXB` (R292). Safe. -/
  | hostInsideCommand
  /-- Raised by `TXNB`: the content does not fit `PB_CAP` (R181). Safe. -/
  | contentTooLong
  /-- Raised by `TXNB` and `TXB`: a code element is above `2^32 − 1` (R181, R204). Safe. -/
  | elementTooWide
  /-- Raised by the completion of `CAPTURE`: a delivered gap is negative (R126). Safe. -/
  | negativeGap
  /-- Raised by a host access that is not a whole aligned word at a listed offset (R63). Safe. -/
  | badRegisterAccess
  /-- Raised by a host write to a register other than `CMD` (R102). Safe. -/
  | writeToReadOnly
  /-- Raised by a host read of `CMD` (R102). Safe. -/
  | readOfCmd
  /-- Raised by a host read of a register whose value does not fit 32 bits (R102; log 21). Safe. -/
  | registerTooWide
deriving DecidableEq, Repr

/-- The state: R21, then the environment (R38, R39), then the model's own fields. -/
structure State where
  /-- The parameters, which no step changes (R43; log 4). -/
  cfg : Config
  /-- `ET` (R24). -/
  et : List Word
  /-- `EDGE_X` (R23). -/
  edgeX : Nat
  /-- `CAP_PHASE` (R23). -/
  capPhase : CapPhase
  /-- `LAST_LEVEL` (R25). -/
  lastLevel : Bool
  /-- `CAP_KEY` (R23). -/
  capKey : Key
  /-- `GS` (R26). -/
  gs : List Int
  /-- `THR` (R27). -/
  thr : Nat
  /-- `FRAMES` (R27). -/
  frames : List Code
  /-- `CAP_RESULT` (R28). -/
  capResult : CapResult
  /-- `PB` (R29). -/
  pb : List Word
  /-- `INDEX` (R22). -/
  index : Nat
  /-- `PSTATE` (R22). -/
  pstate : PState
  /-- `ACTIVE_LOW` (R30). -/
  activeLow : Bool
  /-- `TX_PIN` (R31). -/
  txPin : Bool
  /-- `TIMER_ARMED` (R32). -/
  timerArmed : Bool
  /-- `TIMER_DUR` (R32). -/
  timerDur : Word
  /-- `GEN_RUNNING` (R33). -/
  genRunning : Bool
  /-- `GEN_WAVE` (R33). -/
  genWave : List Word
  /-- `GEN_LOOPS` (R33). -/
  genLoops : Nat
  /-- `GEN_POS` (R33). -/
  genPos : Nat
  /-- `STORE` (R34). -/
  store : Store
  /-- `LATENCY_MS` (R35). -/
  latencyMs : Rat
  /-- `MAXLEN` (R35). -/
  maxlen : Nat
  /-- `PB_CAP` (R35). -/
  pbCap : Nat
  /-- `ERR` (R36). -/
  err : ErrorKind
  /-- `CRIT` (R37). -/
  crit : Bool
  /-- `FILE` (R38). -/
  file : FileContent
  /-- `RX_LEVEL` (R39). -/
  rxLevel : Bool
  /-- `CLOCK` (R39). -/
  clock : Word
  /-- ENV's answer to `FileRead` (log 23). -/
  mediumReadable : Bool
  /-- ENV's answer to `FileWrite` (log 23). -/
  mediumWritable : Bool
  /-- ENV's answer to `LoadAndRun` (log 23). -/
  genAccepts : Bool
  /-- The `TXB` in progress (log 16). -/
  txb : Option TxbRun
  /-- What the last ended command returned (log 13). -/
  ret : Ret
  /-- What the host's last register read got (log 21). -/
  rdata : Word
  /-- The PinWrite events so far, oldest first (log 12). -/
  pinLog : List PinEvent
  /-- The turns still to come (log 1). -/
  turns : List Turn
  /-- The host's accesses still to come, in program order (log 3). -/
  bus : List HostAccess
  /-- How many free values have been drawn (log 10). -/
  draws : Nat
deriving DecidableEq, Repr

/-- `CAP_RESULT` after reset (R44); its undefined quality is log 5's value. -/
def CapResult.cleared : CapResult where
  ok := false
  error := .none
  framesTotal := 0
  framesKept := 0
  discarded := 0
  variances := []

/-- The machine right after reset under the configuration `c` (R44). The values R44 leaves unspecified
are DESIGN CHOICE, log 5, unsafe; those of the collaborators and of ENV are log 6, unsafe. -/
def State.resetWith (c : Config) : State where
  cfg := c
  et := List.replicate c.nedges 0
  edgeX := 0
  capPhase := .idle
  lastLevel := false
  capKey := 0
  gs := List.replicate (c.nedges - 2) 0
  thr := 0
  frames := []
  capResult := CapResult.cleared
  pb := [0]
  index := 0
  pstate := .idle
  activeLow := false
  txPin := false
  timerArmed := false
  timerDur := 0
  genRunning := false
  genWave := []
  genLoops := 0
  genPos := 0
  store := []
  latencyMs := 0
  maxlen := 0
  pbCap := 1
  err := .none
  crit := false
  file := .absent
  rxLevel := false
  clock := 0
  mediumReadable := true
  mediumWritable := true
  genAccepts := true
  txb := none
  ret := .none
  rdata := 0
  pinLog := []
  turns := []
  bus := []
  draws := 0

/-- The machine right after reset (R44, R280), under log 4's configuration. -/
def State.reset : State := State.resetWith Config.default

end Sys2Proof.Machine
end

