-- ==== Sys2Proof/Machine/Ops.lean ====
section
/-! DEFINITION. The named operations over the state: outcomes, the store, the pin, the timer, raising an
error, entering the callback, reset. -/

namespace Sys2Proof.Machine

/-- The outcome of a step or of a part of one. -/
abbrev Result := Host.Outcome State Fault Refusal

/-- Continue with `f` if `o` answered a next state. -/
def andThen (o : Result) (f : State → Result) : Result :=
  match o with
  | .next s => f s
  | .fault r => .fault r
  | .refused r => .refused r

/-! The CodeStore as a finite map (R12, R34). -/

/-- The canonical form: keys strictly rising. -/
abbrev storeWf (m : Store) : Prop := (m.map Prod.fst).Pairwise (· < ·)

/-- `m[k]`, none where `k ∉ dom(m)`. -/
def storeLookup (k : Nat) : Store → Option Code
  | [] => none
  | e :: r => if k = e.1 then some e.2 else storeLookup k r

/-- `m[k ↦ c]`. -/
def storeInsert (k : Nat) (c : Code) : Store → Store
  | [] => [(k, c)]
  | e :: r =>
    if k < e.1 then (k, c) :: e :: r
    else if k = e.1 then (k, c) :: r
    else e :: storeInsert k c r

/-- `m \ k`. -/
def storeErase (k : Nat) : Store → Store
  | [] => []
  | e :: r => if k = e.1 then storeErase k r else e :: storeErase k r

/-- `dom(m)`. -/
def storeKeys (m : Store) : List Nat := m.map Prod.fst

/-- R226: every entry of `r` goes into `m`, and replaces `m`'s entry under the same key. -/
def storeMerge (m : Store) : Store → Store
  | [] => m
  | e :: r => storeMerge (storeInsert e.1 e.2 m) r

/-! The output pin (R31, R75). -/

/-- `PinWrite(l)`, with the duration scheduled or slept after it. -/
def State.pinWrite (s : State) (l : Bool) (held : Option Nat) : State :=
  { s with txPin := l, pinLog := s.pinLog ++ [⟨l, held⟩] }

/-! The one-shot timer (R190). -/

/-- `ScheduleOnce(d)` (R190). -/
def State.scheduleOnce (s : State) (d : Word) : State :=
  { s with timerDur := d, timerArmed := true }

/-- Entry of the timer callback (R250, R253): the expiry is acknowledged, and nothing is saved, since the
callback restores nothing when it returns (R254). -/
def State.enterCallback (s : State) : State :=
  { s with timerArmed := false }

/-! The end of a command. -/

/-- The kind of an error (R240). -/
def Raised.kind : Raised → ErrorKind
  | .captureTooFewFrames _ => .captureTooFewFrames
  | .unknownKey _ => .unknownKey
  | .storeIO => .storeIOError
  | .unsupportedPolarity => .unsupportedPolarity
  | .generatorRejected => .generatorRejected
  | .illegalCommand => .illegalCommand

/-- `CAP_PHASE` after an error: only `CAPTURE` raises `CaptureTooFewFrames`, and ends its phase (R247 (3)). -/
def Raised.phaseAfter (x : Raised) (p : CapPhase) : CapPhase :=
  match x with
  | .captureTooFewFrames _ => .idle
  | _ => p

/-- `raise E(info)` (R247): the one way a command ends with an error. -/
def State.raise (s : State) (x : Raised) : State :=
  { s with err := x.kind, capPhase := x.phaseAfter s.capPhase, ret := .raised x }

/-- The end of a command without an error: `ERR <- None`, and `r` goes to the caller (R100). -/
def State.succeed (s : State) (r : Ret) : State :=
  { s with err := .none, ret := r }

/-! Reset (R280, R282). -/

/-- The reset transition: every element takes its reset value; the configuration, `FILE` and ENV are not
touched. The turns and accesses to come belong to the agents, and the pin record goes on with the idle
level that reset writes (R31; log 28). -/
def State.resetFrom (s : State) : State :=
  { State.resetWith s.cfg with
    file := s.file
    rxLevel := s.rxLevel
    clock := s.clock
    mediumReadable := s.mediumReadable
    mediumWritable := s.mediumWritable
    genAccepts := s.genAccepts
    pinLog := s.pinLog ++ [⟨false, none⟩]
    turns := s.turns
    bus := s.bus
    draws := s.draws }

/-! ENV (R39, R124). -/

/-- One turn of ENV. The clock counts modulo `P` (R124). -/
def State.environment (s : State) : EnvEvent → State
  | .driveRx level => { s with rxLevel := level }
  | .advanceClock us => { s with clock := BitVec.ofNat 32 ((s.clock.toNat + us) % s.cfg.period) }
  | .setMedium readable writable => { s with mediumReadable := readable, mediumWritable := writable }
  | .setFile f => { s with file := f }
  | .setGenAccepts accepts => { s with genAccepts := accepts }

/-- `FileRead()` (R14, R226): fails if `FILE` is absent, malformed or the medium is not readable. -/
def State.fileRead (s : State) : Option Store :=
  match s.file with
  | .mapping m => if s.mediumReadable then some m else none
  | .absent => none
  | .malformed => none

end Sys2Proof.Machine
end

