-- ==== Sys2Proof/Machine/Operands.lean ====
section
/-! DEFINITION. The operands and derived values of the commands: levels, the buffer's content and size,
the latency figure, the clock difference, exact rounding. -/

namespace Sys2Proof.Machine

/-- `LevelOf(i)` (R30): even positions are marks. -/
def levelOf (activeLow : Bool) (i : Nat) : Bool := xor (i % 2 == 0) activeLow

/-- `IDLE_LEVEL` (R30). -/
def State.idleLevel (s : State) : Bool := s.activeLow

/-- The generator is in use and natively loops (R172, R226). -/
def nativeLoop (c : Config) : Bool := c.strategy == .generator && c.genNativeLoop

/-- `s ^ n` (R12). -/
def repeatCode (n : Nat) (c : Code) : Code := (List.replicate n c).flatten

/-- The content of the PlaybackBuffer for the code `c` (R92, R172), sentinel included. -/
def bufferContent (cfg : Config) (c : Code) : List Nat :=
  if nativeLoop cfg then c ++ [0] else repeatCode cfg.reps c ++ [0]

/-- `PB_CAP` for a `MAXLEN` (R8, R226). -/
def bufferSize (cfg : Config) (maxlen : Nat) : Nat :=
  if nativeLoop cfg then maxlen + 1 else cfg.reps * maxlen + 1

/-- Every element fits u32 (R172, R204). -/
def fitsU32 (c : Code) : Bool := c.all (· < 2 ^ 32)

/-- `max` of a sequence of naturals, 0 for the empty one. -/
def maxOf (l : List Nat) : Nat := l.foldr max 0

/-- `MAXLEN` of a store (R226). -/
def maxCodeLength (m : Store) : Nat := maxOf (m.map fun e => e.2.length)

/-- The longest total on-time of a store, in microseconds (R177). -/
def longestOnTime (m : Store) : Nat := maxOf (m.map fun e => e.2.sum)

/-- `ComputeLatency(S)`, milliseconds, exact (R177). An empty store has a longest on-time of 0. -/
def computeLatency (reps : Nat) (m : Store) : Rat :=
  mkRat ((reps + latencyExtra) * longestOnTime m : Nat) 1000

/-- `Diff(a, b)` (R124). -/
def diff (period : Nat) (a b : Word) : Int :=
  ((a.toNat : Int) - (b.toNat : Int) + (period / 2 : Nat)) % (period : Int) - (period / 2 : Nat)

/-- `round(n / d)`, half to even (R15). -/
def roundHalfEven (n d : Nat) : Nat :=
  if 2 * (n % d) < d then n / d
  else if d < 2 * (n % d) then n / d + 1
  else if (n / d) % 2 = 0 then n / d else n / d + 1

/-- `INDEX` in a buffer re-sized to `cap` elements: as it was where that is in range, else some value in
range (R22, R232, R301; log 20). -/
def indexWithin (draw cap i : Nat) : Nat := if i < cap then i else Config.freeIndex draw % cap

/-- The contents of `ET` after its capture has returned: free timestamps (R24, R301; log 22). -/
def deadStamps (cfg : Config) (draw : Nat) : List Word :=
  (List.range cfg.nedges).map fun i => BitVec.ofNat 32 ((Config.freeStamp draw i).toNat % cfg.period)

/-- The contents of `GS` after its capture has returned: free gaps (R26, R301; log 22). -/
def deadGaps (cfg : Config) (draw : Nat) : List Int :=
  (List.range (cfg.nedges - 2)).map fun i => ((Config.freeGap draw i).toNat : Int)

/-- What the transients of a capture hold once it has returned: unspecified values, the ones it left among
them (R241, R301; log 22). -/
def State.discardTransients (s : State) : State :=
  { s with
    et := deadStamps s.cfg s.draws
    gs := deadGaps s.cfg s.draws
    thr := Config.freeThreshold s.draws
    frames := Config.freeFrames s.draws
    draws := s.draws + 1 }

/-- The contents of `PB` after its re-size to `cap` elements: free values (R226, R301; log 7). -/
def freshBuffer (draw cap : Nat) : List Word := (List.range cap).map (Config.freePbWord draw)

end Sys2Proof.Machine
end

