-- ==== Sys2Proof/Machine/Flags.lean ====
section
/-! DEFINITION. The status flags and the register views (10_state.md R40, R41, 30_encoding.md R102 to
R105). -/

namespace Sys2Proof.Machine

/-- `STATUS.RUNNING` (R40). -/
def State.running (s : State) : Bool := s.pstate == .running || s.genRunning

/-- `STATUS.CAP_BUSY` (R40). -/
def State.capBusy (s : State) : Bool := s.capPhase != .idle

/-- The host is not inside `CAPTURE` or `TXB` (R100, R292). -/
def State.hostFree (s : State) : Bool := s.capPhase == .idle && s.txb.isNone

/-- `STATUS` (R103). -/
def State.statusWord (s : State) : Nat :=
  s.running.toNat + 2 * s.capBusy.toNat + 4 * s.capResult.ok.toNat + 8 * s.activeLow.toNat
    + 16 * s.timerArmed.toNat + 32 * s.crit.toNat

/-- Bit 1 of `CFG` (R104). -/
def Strategy.bit : Strategy → Nat
  | .callback => 0
  | .generator => 1

/-- `CFG` (R104). -/
def State.cfgWord (s : State) : Nat :=
  s.activeLow.toNat + 2 * Strategy.bit s.cfg.strategy + 4 * s.cfg.genNativeLoop.toNat
    + 8 * s.cfg.genActiveLowOk.toNat

/-- The code of an error kind (R240). -/
def ErrorKind.code : ErrorKind → Nat
  | .none => 0
  | .captureTooFewFrames => 1
  | .unknownKey => 2
  | .storeIOError => 3
  | .unsupportedPolarity => 4
  | .unsupportedPlatform => 5
  | .generatorRejected => 6
  | .illegalCommand => 7

/-- The registers of the binding (R102). -/
inductive Reg where
  | cmd
  | status
  | err
  | cfg
  | nedges
  | reps
  | maxlen
  | pbCap
  | resNframes
  | resNkept
  | resNdiscard
  | index
  | edgeX
deriving DecidableEq, Repr

/-- The register at a byte offset from `MRC_BASE` (R102). -/
def regAt : Nat → Option Reg
  | 0x00 => some .cmd
  | 0x04 => some .status
  | 0x08 => some .err
  | 0x0C => some .cfg
  | 0x10 => some .nedges
  | 0x14 => some .reps
  | 0x18 => some .maxlen
  | 0x1C => some .pbCap
  | 0x20 => some .resNframes
  | 0x24 => some .resNkept
  | 0x28 => some .resNdiscard
  | 0x2C => some .index
  | 0x30 => some .edgeX
  | _ => none

/-- The value a readable register shows (R102); `CMD` holds nothing. -/
def State.regValue (s : State) : Reg → Option Nat
  | .cmd => none
  | .status => some s.statusWord
  | .err => some (ErrorKind.code s.err)
  | .cfg => some s.cfgWord
  | .nedges => some s.cfg.nedges
  | .reps => some s.cfg.reps
  | .maxlen => some s.maxlen
  | .pbCap => some s.pbCap
  | .resNframes => some s.capResult.framesTotal
  | .resNkept => some s.capResult.framesKept
  | .resNdiscard => some s.capResult.discarded
  | .index => some s.index
  | .edgeX => some s.edgeX

/-- The register an access of `bytes` bytes at `addr` reaches: a whole word at a listed offset (R63, R102).
Every listed offset is a multiple of 4. -/
def accessedReg (cfg : Config) (addr bytes : Nat) : Option Reg :=
  if bytes = 4 then
    if cfg.mrcBase ≤ addr then regAt (addr - cfg.mrcBase) else none
  else none

/-- The `require` line of a command that may run during a transmission: the host is not inside another
command (R292). -/
def whenFree (s : State) (r : Result) : Result :=
  if s.hostFree then r else .refused .hostInsideCommand

/-- The `require` line of a command that may not run during a transmission:
`STATUS.RUNNING = 0 and CAP_PHASE = CAP_IDLE` (R120, R170, R178, R204, R226, R292). -/
def whenQuiet (s : State) (r : Result) : Result :=
  whenFree s (if s.running then .refused .transmissionRunning else r)

/-- The lookup of a key, or `UnknownKey` with no side effect (R171, R242). -/
def withCode (k : Nat) (s : State) (f : Code → Result) : Result :=
  match storeLookup k s.store with
  | none => .next (s.raise (.unknownKey k))
  | some c => f c

end Sys2Proof.Machine
end

