-- ==== Sys2Proof/Machine/Reduce.lean ====
section
/-! DEFINITION. The reduction (41_capture_gaps_frames.md R140 to R152) as functions of the timestamps. -/

namespace Sys2Proof.Machine

/-- Successive wrap-safe differences (R141). -/
def rawGaps (period : Nat) : List Word → List Int
  | [] => []
  | a :: r =>
    match r with
    | [] => []
    | b :: _ => diff period b a :: rawGaps period r

/-- The `NEDGES − 2` delivered gaps: the last raw one is dropped, so `ET[NEDGES − 1]` is not read (R141). -/
def deliveredGaps (period nedges : Nat) (et : List Word) : List Int :=
  rawGaps period (et.take (nedges - 1))

/-- `THR` of the maximum gap (R142). -/
def threshold (m : Nat) : Nat := (4 * m + 2) / 5

/-- The gaps after the first boundary, which is discarded too (R143); none if there is no boundary
(R145). -/
def afterFirstBoundary (thr : Nat) : List Nat → List Nat
  | [] => []
  | g :: r => if thr ≤ g then r else afterFirstBoundary thr r

/-- The scan of R144: `cur` is the frame being accumulated. A non-empty `cur` at the end is dropped. -/
def segmentFrom (thr : Nat) (cur : Code) : List Nat → List Code
  | [] => []
  | g :: r =>
    if thr ≤ g then (cur ++ [g]) :: segmentFrom thr [] r else segmentFrom thr (cur ++ [g]) r

/-- `FRAMES` of the delivered gaps (R143, R144). -/
def segmentGaps (thr : Nat) (gaps : List Nat) : List Code := segmentFrom thr [] (afterFirstBoundary thr gaps)

/-- `count(x)` of R147. -/
def lengthCount (frames : List Code) (x : Nat) : Nat := frames.countP fun f => f.length == x

/-- `M` of R147. -/
def topCount (frames : List Code) : Nat := maxOf (frames.map fun f => lengthCount frames f.length)

/-- `ModalLength(FRAMES)`: the first length, in frame order, that reaches the top count (R147). -/
def modalLength (frames : List Code) : Nat :=
  match frames.find? fun f => lengthCount frames f.length == topCount frames with
  | some f => f.length
  | none => 0

/-- `KEPT` (R147). -/
def keptFrames (frames : List Code) : List Code :=
  frames.filter fun f => f.length == modalLength frames

/-- The values at position `i` of the frames. -/
def column (kept : List Code) (i : Nat) : List Nat := kept.map fun f => f.getD i 0

/-- `code` (R149): the rounded mean of every position below `len`. -/
def averagedCode (kept : List Code) (len : Nat) : Code :=
  (List.range len).map fun i => roundHalfEven (column kept i).sum kept.length

/-- `mu[i]`, the exact mean of a column (R150). -/
def mean (col : List Nat) : Rat := (col.sum : Rat) / (col.length : Rat)

/-- The population variance of a column about its exact mean, `sd[i]^2` (R150). -/
def variance (col : List Nat) : Rat :=
  (col.map fun (x : Nat) => ((x : Rat) - mean col) * ((x : Rat) - mean col)).sum / (col.length : Rat)

/-- The vector `sd[i]^2` (R150). -/
def variances (kept : List Code) (len : Nat) : List Rat :=
  (List.range len).map fun i => variance (column kept i)

/-- `CAP_RESULT` of a failed capture; its quality is the free value `undefinedQuality` (R146, R148, R301). -/
def failedResult (total kept discarded : Nat) (undefinedQuality : List Rat) : CapResult where
  ok := false
  error := .captureTooFewFrames
  framesTotal := total
  framesKept := kept
  discarded := discarded
  variances := undefinedQuality

/-- The checks, the filter and the average of R146 to R150: the result, and the code if it is a success. -/
def judgeFrames (undefinedQuality : List Rat) (frames : List Code) : CapResult × Option Code :=
  if frames.length < minFrames then (failedResult frames.length 0 0 undefinedQuality, none)
  else if (keptFrames frames).length < minFrames then
    (failedResult frames.length (keptFrames frames).length
      (frames.length - (keptFrames frames).length) undefinedQuality, none)
  else
    ({ ok := true
       error := .none
       framesTotal := frames.length
       framesKept := (keptFrames frames).length
       discarded := frames.length - (keptFrames frames).length
       variances := variances (keptFrames frames) (modalLength frames) },
     some (averagedCode (keptFrames frames) (modalLength frames)))

/-- `THR` of the delivered gaps (R142). -/
def gapThreshold (gaps : List Nat) : Nat := threshold (maxOf gaps)

/-- `FRAMES` of the delivered gaps under their own threshold. -/
def framesOf (gaps : List Nat) : List Code := segmentGaps (gapThreshold gaps) gaps

end Sys2Proof.Machine
end

