-- ==== Sys2Proof/Machine/Capture.lean ====
section
/-! DEFINITION. The capture family: `CAPTURE`, the sampler step, the completion of a capture
(40_capture_edge.md, 41_capture_gaps_frames.md). -/

namespace Sys2Proof.Machine

/-- `CAPTURE key` up to its wait (R120): the sampler steps and the host's `finishCapture` do the rest
(log 17). -/
def execCapture (k : Nat) (s : State) : Result :=
  whenQuiet s (.next { s with
    capKey := k
    edgeX := 0
    lastLevel := s.rxLevel
    crit := true
    capPhase := .sampling })

/-- `SamplerStep()` where the level has changed: stamp, count, remember, and leave the critical section
with the last edge (R122). -/
def recordEdge (s : State) : Result :=
  if s.edgeX < s.et.length then
    .next { s with
      et := s.et.set s.edgeX s.clock
      edgeX := s.edgeX + 1
      lastLevel := s.rxLevel
      crit := if s.edgeX + 1 = s.cfg.nedges then false else s.crit
      capPhase := if s.edgeX + 1 = s.cfg.nedges then .reducing else s.capPhase }
  else .fault (.etBounds s.edgeX)

/-- `SamplerStep()` (R122). -/
def samplerStep (s : State) : Result :=
  if s.rxLevel = s.lastLevel then .next s else recordEdge s

/-- The outcome of a reduction, stored and reported (R152): success stores the code under `CAP_KEY` and
returns the result; failure raises `CaptureTooFewFrames` and stores nothing. -/
def reportCapture (s : State) (r : CapResult) (code : Option Code) : State :=
  match code with
  | some c =>
    State.succeed { s with
      capResult := r
      store := storeInsert s.capKey c s.store
      capPhase := .idle } (.captured r)
  | none => State.raise { s with capResult := r } (.captureTooFewFrames r)

/-- The reduction of the delivered gaps `gs`, all non-negative (R140). -/
def reduceGaps (s : State) (gs : List Int) : State :=
  reportCapture
    { s with gs := gs, thr := gapThreshold (gs.map Int.toNat), frames := framesOf (gs.map Int.toNat) }
    (judgeFrames (Config.freeVariances s.draws) (framesOf (gs.map Int.toNat))).1
    (judgeFrames (Config.freeVariances s.draws) (framesOf (gs.map Int.toNat))).2

/-- The end of `CAPTURE`, one atomic step of HOST once `CAP_PHASE = REDUCING`: `Reduce()` and the return
(R120, R140), after which the transients are unspecified (R301). A negative gap is refused (R126). -/
def finishCapture (s : State) : Result :=
  if s.cfg.nedges ≤ s.et.length then
    if (deliveredGaps s.cfg.period s.cfg.nedges s.et).all (0 ≤ ·) then
      .next (reduceGaps s (deliveredGaps s.cfg.period s.cfg.nedges s.et)).discardTransients
    else .refused .negativeGap
  else .fault (.etBounds s.et.length)

end Sys2Proof.Machine
end

