-- ==== Sys2Proof/Machine/Playback.lean ====
section
/-! DEFINITION. The playback family: `TXNB`, `TXB`, `LATENCY`, `CONFIG`, the timer fire, the generator
step (42_playback_build.md, 43_playback_timer.md). -/

namespace Sys2Proof.Machine

/-- `Build(c)` (R172): the content goes into `PB` from position 0, the positions above it stay. The two
`require` lines are refusals, in R252's order. -/
def buildBuffer (c : Code) (s : State) : Result :=
  if (bufferContent s.cfg c).length ≤ s.pbCap then
    if fitsU32 c then
      if (bufferContent s.cfg c).length ≤ s.pb.length then
        .next { s with
          pb := (bufferContent s.cfg c).map (BitVec.ofNat 32) ++ s.pb.drop (bufferContent s.cfg c).length }
      else .fault (.pbBounds s.pb.length)
    else .refused .elementTooWide
  else .refused .contentTooLong

/-- The start of the callback chain (R170, R173). -/
def startChain (s : State) : State :=
  State.scheduleOnce { s with index := 0, pstate := .running } s.cfg.firstDelay

/-- `LoadAndRun(p, rep)` with `p = PB[0 .. len)` and `rep = GEN_NATIVE_LOOP` (R170, R200); the backend may
reject the waveform (R203). -/
def loadAndRun (len : Nat) (s : State) : State :=
  if s.genAccepts then
    State.succeed { s with
      genWave := s.pb.take len
      genLoops := if s.cfg.genNativeLoop then s.cfg.reps else 1
      genPos := 0
      genRunning := true } .done
  else s.raise .generatorRejected

/-- What `TXNB` does once the buffer of `len` elements is built (R170). -/
def startTransmission (len : Nat) (s : State) : State :=
  match s.cfg.strategy with
  | .callback => (startChain s).succeed .done
  | .generator => loadAndRun len s

/-- `TXNB key` (R170). -/
def execTxnb (k : Nat) (s : State) : Result :=
  whenQuiet s (withCode k s fun c =>
    andThen (buildBuffer c s) fun t => .next (startTransmission (bufferContent s.cfg c).length t))

/-- The end of `TXB`: the pin goes idle, the critical section ends (R204). -/
def finishTxb (s : State) : State :=
  State.succeed { s.pinWrite s.idleLevel none with crit := false, txb := none } .done

/-- `TXB` from the loop position `r.pos` to its next wait (R64): `PinWrite(LevelOf(j))` and the entry of
`Sleep(c[j mod len(c)])`, or, past the last position, the end (R204). -/
def txbStep (r : TxbRun) (s : State) : State :=
  if r.pos < s.cfg.reps * r.code.length then
    { s.pinWrite (levelOf s.activeLow r.pos) (some (r.code.getD (r.pos % r.code.length) 0)) with
      txb := some ⟨r.code, r.pos + 1⟩ }
  else finishTxb s

/-- `TXB key` up to its first wait (R64, R204): the critical section begins and the first pulse starts, or,
for an empty code, all of it. The host's turns do the rest, one sleep each (log 16). -/
def execTxb (k : Nat) (s : State) : Result :=
  whenQuiet s (withCode k s fun c =>
    if fitsU32 c then .next (txbStep ⟨c, 0⟩ { s with crit := true })
    else .refused .elementTooWide)

/-- `LATENCY` (R176). -/
def execLatency (s : State) : Result :=
  whenFree s (.next (s.succeed (.latency s.latencyMs)))

/-- The hardware cannot express the polarity asked for (R178, R244). -/
def polarityUnsupported (cfg : Config) (a : Bool) : Bool :=
  a && cfg.strategy == .generator && !cfg.genActiveLowOk

/-- `CONFIG a` (R178). -/
def execConfig (a : Bool) (s : State) : Result :=
  whenQuiet s (
    if polarityUnsupported s.cfg a then .next (s.raise .unsupportedPolarity)
    else .next (State.succeed (State.pinWrite { s with activeLow := a } a none) .done))

/-- `TimerFire()` for the buffer element `d` at `INDEX` (R192). On the sentinel the timer stays unarmed, and
`TIMER_DUR` is unspecified from then on (R301; log 22). -/
def fireOn (d : Word) (s : State) : State :=
  if d = 0 then
    { s.pinWrite s.idleLevel none with
      pstate := .idle
      timerDur := Config.freeDuration s.draws
      draws := s.draws + 1 }
  else
    { State.scheduleOnce (s.pinWrite (levelOf s.activeLow s.index) (some d.toNat)) d with
      index := s.index + 1 }

/-- `TimerFire()` (R192). -/
def timerFire (s : State) : Result :=
  match s.pb[s.index]? with
  | some d => .next (fireOn d s)
  | none => .fault (.pbBounds s.index)

/-- The TIMER agent's step: the expiry, then the callback, masked by `CRIT` (R191, R251). -/
def timerTurn (s : State) : Result :=
  if s.timerArmed && !s.crit then timerFire s.enterCallback else .next s

/-- `GenStep()` for the waveform element `d` at `GEN_POS` (R201). -/
def generateOn (d : Word) (s : State) : State :=
  if d = 0 then
    if 1 < s.genLoops then { s with genLoops := s.genLoops - 1, genPos := 0 }
    else { s.pinWrite s.idleLevel none with genRunning := false }
  else
    { s.pinWrite (levelOf s.activeLow s.genPos) (some d.toNat) with genPos := s.genPos + 1 }

/-- The GEN agent's step (R201); `CRIT` does not hold it off. -/
def genTurn (s : State) : Result :=
  if s.genRunning then
    match s.genWave[s.genPos]? with
    | some d => .next (generateOn d s)
    | none => .fault (.genBounds s.genPos)
  else .next s

end Sys2Proof.Machine
end

