-- ==== Sys2Proof/Machine/StoreCommands.lean ====
section
/-! DEFINITION. The CodeStore family: `DELETE`, `KEYS`, `INSPECT`, `LOAD`, `SAVE` (44_store.md). -/

namespace Sys2Proof.Machine

/-- `DELETE key` (R220). -/
def execDelete (k : Nat) (s : State) : Result :=
  whenFree s (withCode k s fun _ =>
    .next (State.succeed { s with store := storeErase k s.store } .done))

/-- `KEYS` (R222). -/
def execKeys (s : State) : Result :=
  whenFree s (.next (s.succeed (.keys (storeKeys s.store))))

/-- `INSPECT key` (R224). -/
def execInspect (k : Nat) (s : State) : Result :=
  whenFree s (withCode k s fun c => .next (s.succeed (.code c)))

/-- The merged store `m` and the three values computed at load; the re-sized `PB` holds free values
(R226; log 7), and `INDEX` stays in range (R22; log 20). -/
def installStore (m : Store) (s : State) : State :=
  { s with
    store := m
    latencyMs := computeLatency s.cfg.reps m
    maxlen := maxCodeLength m
    pbCap := bufferSize s.cfg (maxCodeLength m)
    pb := freshBuffer s.draws (bufferSize s.cfg (maxCodeLength m))
    index := indexWithin s.draws (bufferSize s.cfg (maxCodeLength m)) s.index
    draws := s.draws + 1 }

/-- `LOAD` (R226). -/
def execLoad (s : State) : Result :=
  whenQuiet s (
    match s.fileRead with
    | none => .next (s.raise .storeIO)
    | some r => .next ((installStore (storeMerge s.store r) s).succeed .done))

/-- `SAVE` (R228): after a failed `FileWrite`, `FILE` is a free value (log 8). -/
def execSave (s : State) : Result :=
  whenFree s (
    if s.mediumWritable then .next (State.succeed { s with file := .mapping s.store } .done)
    else .next (State.raise { s with file := Config.freeFile s.draws, draws := s.draws + 1 } .storeIO))

end Sys2Proof.Machine
end

