-- ==== Sys2Proof/Machine/Dispatch.lean ====
section
/-! DEFINITION. One arm per command. -/

namespace Sys2Proof.Machine

def exec (i : Instr) (s : State) : Host.Outcome State Fault Refusal :=
  match i with
  | .capture k => Sys2Proof.Machine.execCapture k s
  | .txnb k => Sys2Proof.Machine.execTxnb k s
  | .txb k => Sys2Proof.Machine.execTxb k s
  | .latency => Sys2Proof.Machine.execLatency s
  | .config a => Sys2Proof.Machine.execConfig a s
  | .delete k => Sys2Proof.Machine.execDelete k s
  | .keys => Sys2Proof.Machine.execKeys s
  | .inspect k => Sys2Proof.Machine.execInspect k s
  | .load => Sys2Proof.Machine.execLoad s
  | .save => Sys2Proof.Machine.execSave s

end Sys2Proof.Machine
end

