-- ==== Sys2Proof/Machine/Turns.lean ====
section
/-! DEFINITION. The agents' turns: the host's register accesses and the step of every agent
(00_scope.md R17, 30_encoding.md R100, R102). -/

namespace Sys2Proof.Machine

/-- A word written to `CMD` (R100): the command it selects, or `IllegalCommand` (R107, R248). -/
def issueCommand (w : Word) (s : State) : Result :=
  match decode w with
  | .ok i => exec i s
  | .error _ => .next (s.raise .illegalCommand)

/-- A host write (R102): only `CMD` takes one. -/
def writeRegister (r : Reg) (data : Word) (s : State) : Result :=
  match r with
  | .cmd => issueCommand data s
  | _ => .refused .writeToReadOnly

/-- A host read (R102): the value, zero-extended to 32 bits, which must fit (log 21). -/
def readRegister (r : Reg) (s : State) : Result :=
  match s.regValue r with
  | some v =>
    if v < 2 ^ 32 then .next { s with rdata := BitVec.ofNat 32 v } else .refused .registerTooWide
  | none => .refused .readOfCmd

/-- A host access to the register window (R63, R102). -/
def hostAccess (a : HostAccess) (s : State) : Result :=
  match a with
  | .write addr bytes data =>
    match accessedReg s.cfg addr bytes with
    | some r => writeRegister r data s
    | none => .refused .badRegisterAccess
  | .read addr bytes =>
    match accessedReg s.cfg addr bytes with
    | some r => readRegister r s
    | none => .refused .badRegisterAccess

/-- The next access of a host that is in no command; without one the host goes on with its own work. -/
def nextAccess (s : State) : Result :=
  match s.bus with
  | [] => .next s
  | a :: rest => hostAccess a { s with bus := rest }

/-- The host's turn (R17, R100): inside `CAPTURE` it waits or completes it, inside `TXB` it makes the next
pulse, else it makes its next access. -/
def hostTurn (s : State) : Result :=
  match s.capPhase with
  | .sampling => .next s
  | .reducing => finishCapture s
  | .idle =>
    match s.txb with
    | some r => .next (txbStep r s)
    | none => nextAccess s

/-- The SAMPLER agent's step, enabled while `CAP_PHASE = SAMPLING` (R122). -/
def samplerTurn (s : State) : Result :=
  match s.capPhase with
  | .sampling => samplerStep s
  | .idle => .next s
  | .reducing => .next s

/-- One turn. An agent that has no step lets its turn pass (log 1). -/
def takeTurn (t : Turn) (s : State) : Result :=
  match t with
  | .host => hostTurn s
  | .sampler => samplerTurn s
  | .timer => timerTurn s
  | .gen => genTurn s
  | .env e => .next (s.environment e)
  | .reset => .next s.resetFrom

/-- The next turn of the list; with none, MRC waits (R44; log 2). -/
def nextTurn (s : State) : Result :=
  match s.turns with
  | [] => .next s
  | t :: rest => takeTurn t { s with turns := rest }

/-- `s` with the host about to write the word `w` to `CMD`: the host is between commands, the write is its
next access, and the next turn is its own. A command word is 32 bits; a wider one is placed as its low
word. -/
def placeCommand (s : State) (nbits w : Nat) : State :=
  { s with
    capPhase := .idle
    txb := none
    turns := .host :: s.turns
    bus := .write s.cfg.mrcBase 4 (BitVec.ofNat 32 (w % 2 ^ nbits)) :: s.bus }

end Sys2Proof.Machine
end

