-- ==== Sys2Proof/Machine/Step.lean ====
section
/-! DEFINITION. One step of the machine, and the placing of a command where it fetches the next. -/

namespace Sys2Proof.Machine

/-- One step: the next turn, under a configuration within the bounds (R9, R281). -/
def step (s : State) : Host.Outcome State Fault Refusal :=
  if s.cfg.valid then nextTurn s else .refused .badConfig

/-- `s` with the command word placed as the host's next write to `CMD` (log 2). -/
def State.withFetchWord (s : State) (nbits w : Nat) : State := placeCommand s nbits w

end Sys2Proof.Machine
end

