-- ==== Sys2Proof/Safety.lean ====
section
/-! DEFINITION. What holds of every state a run from reset reaches (10_state.md R45 and the derived
statements of R22, R42, R63, R178, R251), and the terms the statements about waveforms and captures use. -/

namespace Sys2Proof.Machine

/-- The machine's invariant. It says nothing of a value the spec leaves unspecified (R301). -/
structure Inv (s : State) : Prop where
  /-- R9, R281. -/
  valid : s.cfg.valid = true
  /-- R24, R45 (1). -/
  etLength : s.et.length = s.cfg.nedges
  /-- R24: timestamps lie below the modulus. -/
  etStamps : ∀ t ∈ s.et, t.toNat < s.cfg.period
  /-- R23. -/
  edgeLe : s.edgeX ≤ s.cfg.nedges
  /-- R63: there is room for the next edge. -/
  samplingRoom : s.capPhase = .sampling → s.edgeX < s.cfg.nedges
  /-- R23. -/
  reducingFull : s.capPhase = .reducing → s.edgeX = s.cfg.nedges
  /-- R26. -/
  gsLength : s.gs.length = s.cfg.nedges - 2
  /-- R26, R61: gaps are non-negative and fit i32. -/
  gsRange : ∀ g ∈ s.gs, 0 ≤ g ∧ g < 2 ^ 31
  /-- R28. -/
  resultOk : s.capResult.ok = true →
    s.capResult.error = .none ∧ minFrames ≤ s.capResult.framesKept ∧
      s.capResult.framesKept + s.capResult.discarded = s.capResult.framesTotal
  /-- R29, R35. -/
  pbLength : s.pb.length = s.pbCap
  /-- R21. -/
  pbRoom : 1 ≤ s.pbCap
  /-- R22. -/
  indexRange : s.index < s.pbCap
  /-- R45 (5): a running chain has a sentinel at or above `INDEX`, and a pending expiry. -/
  chain : s.pstate = .running →
    s.cfg.strategy = .callback ∧ s.timerArmed = true ∧ 0 ∈ s.pb.drop s.index
  /-- R251: the timer is armed only while the chain runs. -/
  armed : s.timerArmed = true → s.pstate = .running
  /-- R201: a running generator has a sentinel at or above `GEN_POS`. -/
  generator : s.genRunning = true →
    s.cfg.strategy = .generator ∧ 1 ≤ s.genLoops ∧ 0 ∈ s.genWave.drop s.genPos
  /-- R178 (d). -/
  polarity : s.activeLow = true → s.cfg.strategy = .generator → s.cfg.genActiveLowOk = true
  /-- R37. -/
  critical : s.crit = (s.capPhase == .sampling || s.txb.isSome)
  /-- R100: the host is in one command at a time. -/
  oneCommand : s.txb.isSome = true → s.capPhase = .idle
  /-- R292. -/
  quiet : s.hostFree = false → s.running = false
  /-- R64, R204: a sleeping `TXB` has begun its first pulse. -/
  txbRange : ∀ r, s.txb = some r → 1 ≤ r.pos ∧ r.pos ≤ s.cfg.reps * r.code.length ∧ ∀ e ∈ r.code, e < 2 ^ 32
  /-- R34: the store is a map, in its canonical form. -/
  storeCanonical : storeWf s.store
  /-- R39. -/
  clockRange : s.clock.toNat < s.cfg.period

/-- `n` steps, stopping at the first fault or refusal: `Host.Core.run core`, over `State` itself. -/
def run : Nat → State → Result
  | 0, s => .next s
  | n + 1, s => andThen (step s) (run n)

/-- The pin writes of the pulses `b` from position `i` on: level and duration of each (R75, R196). -/
def pulsesFrom (activeLow : Bool) (i : Nat) : List Nat → List PinEvent
  | [] => []
  | d :: r => ⟨levelOf activeLow i, some d⟩ :: pulsesFrom activeLow (i + 1) r

/-- The pin writes of a whole waveform `b` (R196). -/
def pulses (activeLow : Bool) (b : List Nat) : List PinEvent := pulsesFrom activeLow 0 b

/-- The idle write that ends a transmission (R192, R201, R204). -/
def idleEvent (activeLow : Bool) : PinEvent := ⟨activeLow, none⟩

/-- The turns of one detecting poll: `us` microseconds pass, the pin goes to `level`, the sampler polls
(R122, R126). -/
def pollTurns (p : Nat × Bool) : List Turn := [.env (.advanceClock p.1), .env (.driveRx p.2), .sampler]

/-- Each level differs from the one before it, the first from `l` (R122 (e)). -/
def alternates (l : Bool) : List Bool → Bool
  | [] => true
  | x :: r => x != l && alternates x r

/-- The timestamps of edges that come `us` microseconds after one another, from clock reading `t` on
(R124, R125). -/
def stampsFrom (period t : Nat) : List Nat → List Word
  | [] => []
  | us :: r => BitVec.ofNat 32 ((t + us) % period) :: stampsFrom period (t + us) r

/-- `s` with the host about to write the word `w` to `CMD` and the agent `a` then taking `n` turns. -/
def commandThen (s : State) (w : Word) (a : Turn) (n : Nat) : State :=
  { s with turns := .host :: List.replicate n a, bus := [.write s.cfg.mrcBase 4 w] }

end Sys2Proof.Machine
end

