-- ==== Sys2Proof/Certificates/Slice0/Obligations.lean ====
section
/-! DEFINITION. The statements for the provers. Each docstring names the rule of spec/ it formalises.
Where a statement speaks of the model's own fields (log 1, 3, 10, 12, 13, 16, 21, 23) it says what the
model does with them; no rule of the spec states those clauses. -/

open Sys2Proof Sys2Proof.Machine

/-! Encoding (30_encoding.md). -/

/-- R101: decoding the encoding of a command gives it back, whatever its operand. -/
def Obligations.DecodeOfEncodeIsIdentity : Prop :=
  ∀ i : Instr, i.wf = true → decode (encode i) = .ok i

/-- R100, R101: a word that decodes is the encoding of what it decodes to, so no bit is dropped. -/
def Obligations.DecodedWordIsItsEncoding : Prop :=
  ∀ (w : Word) (i : Instr), decode w = .ok i → i.wf = true ∧ encode i = w

/-- R107 (a): the words that select no command, by their bit fields. -/
def Obligations.IllegalWordsAreTheReservedOnes : Prop :=
  ∀ w : Word, (∀ i, decode w ≠ .ok i) ↔
    (w.extractLsb' 24 8 = 0x00 ∨ 0x0B ≤ w.extractLsb' 24 8 ∨
      ((w.extractLsb' 24 8 = 0x04 ∨ w.extractLsb' 24 8 = 0x07 ∨ w.extractLsb' 24 8 = 0x09 ∨
        w.extractLsb' 24 8 = 0x0A) ∧ w.extractLsb' 0 24 ≠ 0) ∨
      (w.extractLsb' 24 8 = 0x05 ∧ w.extractLsb' 1 23 ≠ 0))

/-- V32 of 95_test_vectors.md: words written out from R101's patterns. -/
def Obligations.SampleWordsDecode : Prop :=
  decode 0x01000007 = .ok (.capture 7) ∧ decode 0x02000001 = .ok (.txnb 1) ∧
  decode 0x03000002 = .ok (.txb 2) ∧ decode 0x04000000 = .ok .latency ∧
  decode 0x05000001 = .ok (.config true) ∧ decode 0x05000000 = .ok (.config false) ∧
  decode 0x06000001 = .ok (.delete 1) ∧ decode 0x07000000 = .ok .keys ∧
  decode 0x08FFFFFF = .ok (.inspect 16777215) ∧ decode 0x09000000 = .ok .load ∧
  decode 0x0A000000 = .ok .save ∧ decode 0x00000000 = .error .noSuchOpcode ∧
  decode 0x0B000000 = .error .noSuchOpcode ∧ decode 0xFF000000 = .error .noSuchOpcode ∧
  decode 0x04000001 = .error .argNotZero ∧ decode 0x05000002 = .error .configReservedBits

/-- R100, and the model's turns and accesses (log 1, 3): when the host's turn comes, the host is between
commands and its next access writes to `CMD` a word that decodes, the step is `exec` of the command in the
state that has lost the turn and the access. -/
def Obligations.StepRunsDecodedCommand : Prop :=
  ∀ (s : State) (w : Word) (i : Instr) (ts : List Turn) (bs : List HostAccess),
    s.cfg.valid = true → s.hostFree = true → s.turns = .host :: ts →
    s.bus = .write s.cfg.mrcBase 4 w :: bs → decode w = .ok i →
    step s = exec i { s with turns := ts, bus := bs }

/-- R248: a word that selects no command changes nothing but `ERR`. (The turn, the access and the returned
value are the model's own fields.) -/
def Obligations.IllegalWordOnlySetsErr : Prop :=
  ∀ (s : State) (w : Word) (e : DecodeError) (ts : List Turn) (bs : List HostAccess),
    s.cfg.valid = true → s.hostFree = true → s.turns = .host :: ts →
    s.bus = .write s.cfg.mrcBase 4 w :: bs → decode w = .error e →
    step s = .next { s with turns := ts, bus := bs, err := .illegalCommand, ret := .raised .illegalCommand }

/-! Reset and the invariant. -/

/-- R44: the values it gives, under any configuration. (The values it leaves unspecified are not here.) -/
def Obligations.ResetStateValues : Prop :=
  ∀ c : Config, ∃ r, r = State.resetWith c ∧
    r.cfg = c ∧ r.edgeX = 0 ∧ r.capPhase = .idle ∧ r.capResult.ok = false ∧ r.capResult.error = .none ∧
    r.capResult.framesTotal = 0 ∧ r.capResult.framesKept = 0 ∧ r.capResult.discarded = 0 ∧ r.index = 0 ∧
    r.pstate = .idle ∧ r.activeLow = false ∧ r.txPin = false ∧ r.timerArmed = false ∧
    r.genRunning = false ∧ r.store = [] ∧ r.latencyMs = 0 ∧ r.maxlen = 0 ∧ r.pbCap = 1 ∧ r.err = .none ∧
    r.crit = false

/-- R280, R282: the reset transition may be taken from any state; it gives every element R44's value and
does not touch the configuration, `FILE`, `RX_LEVEL` or `CLOCK`. -/
def Obligations.ResetTransition : Prop :=
  ∀ (s : State) (ts : List Turn), s.cfg.valid = true → s.turns = .reset :: ts →
    ∃ t, step s = .next t ∧
      t.edgeX = 0 ∧ t.capPhase = .idle ∧ t.capResult.ok = false ∧ t.capResult.error = .none ∧
      t.capResult.framesTotal = 0 ∧ t.capResult.framesKept = 0 ∧ t.capResult.discarded = 0 ∧
      t.index = 0 ∧ t.pstate = .idle ∧ t.activeLow = false ∧ t.txPin = false ∧ t.timerArmed = false ∧
      t.genRunning = false ∧ t.store = [] ∧ t.latencyMs = 0 ∧ t.maxlen = 0 ∧ t.pbCap = 1 ∧
      t.err = .none ∧ t.crit = false ∧
      t.cfg = s.cfg ∧ t.file = s.file ∧ t.rxLevel = s.rxLevel ∧ t.clock = s.clock

/-- The invariant holds right after reset, under every configuration within R9's bounds. -/
def Obligations.ResetHasInvariant : Prop :=
  Inv State.reset ∧ ∀ c : Config, c.valid = true → Inv (State.resetWith c)

/-- R22, R45, R63, R178 (d), R251 and the rest of `Inv`: every step keeps the invariant. -/
def Obligations.StepKeepsInvariant : Prop :=
  ∀ s t : State, Inv s → step s = .next t → Inv t

/-- R63: under the invariant every index a rule computes is in range, so no step faults. -/
def Obligations.InvariantRulesOutFaults : Prop :=
  ∀ s : State, Inv s → ∀ f, step s ≠ .fault f

/-- R43: no step changes the configuration. -/
def Obligations.StepKeepsConfiguration : Prop :=
  ∀ s t : State, step s = .next t → t.cfg = s.cfg

/-! Capture (40_capture_edge.md, 41_capture_gaps_frames.md). -/

/-- R120 up to its wait: `CAPTURE` starts sampling and changes nothing else. -/
def Obligations.CaptureStartsSampling : Prop :=
  ∀ (s : State) (k : Nat), s.hostFree = true → s.running = false →
    exec (.capture k) s = .next { s with
      capKey := k, edgeX := 0, lastLevel := s.rxLevel, crit := true, capPhase := .sampling }

/-- R122: the sampler step. (`ET` has `NEDGES` elements and room for one more edge: R24, R63.) -/
def Obligations.SamplerStepRule : Prop :=
  ∀ (s : State) (ts : List Turn), s.cfg.valid = true → s.turns = .sampler :: ts → s.capPhase = .sampling →
    s.et.length = s.cfg.nedges → s.edgeX < s.cfg.nedges →
    step s = .next (
      if s.rxLevel = s.lastLevel then { s with turns := ts }
      else if s.edgeX + 1 = s.cfg.nedges then
        { s with turns := ts, et := s.et.set s.edgeX s.clock, edgeX := s.cfg.nedges,
                 lastLevel := s.rxLevel, crit := false, capPhase := .reducing }
      else
        { s with turns := ts, et := s.et.set s.edgeX s.clock, edgeX := s.edgeX + 1,
                 lastLevel := s.rxLevel })

/-- R17, R100, R122, R191, R201, R251: an agent that is not enabled has no step. In the model its turn
passes (log 1); the host waits while sampling goes on. -/
def Obligations.DisabledAgentsHaveNoStep : Prop :=
  ∀ (s : State) (a : Turn) (ts : List Turn), s.cfg.valid = true → s.turns = a :: ts →
    (a = .sampler ∧ s.capPhase ≠ .sampling ∨ a = .timer ∧ s.timerArmed = false ∨
      a = .timer ∧ s.crit = true ∨ a = .gen ∧ s.genRunning = false ∨
      a = .host ∧ s.capPhase = .sampling) →
    step s = .next { s with turns := ts }

/-- R23, R24, R122, R124: with enough level changes, sampling fills `ET` with exactly the clock readings
at the edges, then leaves the critical section for the reduction; nothing else of MRC changes. -/
def Obligations.SamplingFillsTimeline : Prop :=
  ∀ (s : State) (polls : List (Nat × Bool)) (ts : List Turn),
    s.cfg.valid = true → s.capPhase = .sampling → s.edgeX = 0 → s.et.length = s.cfg.nedges →
    s.clock.toNat < s.cfg.period → polls.length = s.cfg.nedges →
    alternates s.lastLevel (polls.map Prod.snd) = true → s.turns = polls.flatMap pollTurns ++ ts →
    ∃ (level : Bool) (clock : Word), run (3 * s.cfg.nedges) s = .next { s with
      turns := ts
      et := stampsFrom s.cfg.period s.clock.toNat (polls.map Prod.fst)
      edgeX := s.cfg.nedges
      capPhase := .reducing
      crit := false
      lastLevel := level
      rxLevel := level
      clock := clock }

/-- R124: `Diff` lies in its half-open range and is congruent to the difference. R125: it is the true time
between two edges less than `P/2` apart, is wrong from `P/2` on, and is negative where R125 says so. -/
def Obligations.DiffIsExactBelowHalfPeriod : Prop :=
  ∀ (p t u : Nat), 2 ≤ p → p ≤ 32 → t ≤ u →
    ∀ d : Int, d = diff (2 ^ p) (BitVec.ofNat 32 (u % 2 ^ p)) (BitVec.ofNat 32 (t % 2 ^ p)) →
      (-(2 ^ (p - 1) : Int) ≤ d ∧ d < 2 ^ (p - 1) ∧ ((2 ^ p : Nat) : Int) ∣ (d - ((u : Int) - t))) ∧
      (u - t < 2 ^ (p - 1) → d = (u : Int) - t) ∧
      (2 ^ (p - 1) ≤ u - t → d ≠ (u : Int) - t) ∧
      (2 ^ (p - 1) ≤ (u - t) % 2 ^ p → d < 0)

/-- R141 with R125: for edges less than `P/2` apart the delivered gaps are the times between the edges,
without the last one. (The time before the first edge is no gap.) -/
def Obligations.DeliveredGapsAreTrueTimes : Prop :=
  ∀ (p t : Nat) (us : List Nat), 2 ≤ p → p ≤ 32 → 3 ≤ us.length → (∀ u ∈ us, u < 2 ^ (p - 1)) →
    deliveredGaps (2 ^ p) us.length (stampsFrom (2 ^ p) t us) =
      ((us.drop 1).take (us.length - 2)).map Int.ofNat

/-- R142: the threshold is `round(4m/5)`, lies between 0 and `m`, and is 0 only for `m = 0`. -/
def Obligations.ThresholdIsRoundedFourFifths : Prop :=
  ∀ m : Nat, threshold m = roundHalfEven (4 * m) 5 ∧ threshold m ≤ m ∧ (threshold m = 0 ↔ m = 0)

/-- R15: `round(n / d)` is the nearest integer, and the even one of two that are equally near. -/
def Obligations.RoundIsNearestTiesToEven : Prop :=
  ∀ n d : Nat, 0 < d →
    2 * n ≤ 2 * (d * roundHalfEven n d) + d ∧ 2 * (d * roundHalfEven n d) ≤ 2 * n + d ∧
      ((2 * n = 2 * (d * roundHalfEven n d) + d ∨ 2 * (d * roundHalfEven n d) = 2 * n + d) →
        roundHalfEven n d % 2 = 0)

/-- What R143 and R144 say of the frames of a gap sequence: a lead without boundaries and its closing
boundary are discarded, the frames tile what follows, each ends with its only boundary, and what is left
over has no boundary. -/
def Sys2Proof.Machine.TilesGaps (thr : Nat) (gaps : List Nat) (frames : List Code) : Prop :=
  ∃ lead b tail, gaps = lead ++ b :: (frames.flatten ++ tail) ∧
    (∀ g ∈ lead, g < thr) ∧ thr ≤ b ∧ (∀ g ∈ tail, g < thr) ∧
    ∀ f ∈ frames, ∃ body last, f = body ++ [last] ∧ (∀ g ∈ body, g < thr) ∧ thr ≤ last

/-- R143, R144, R145: segmentation under the sequence's own threshold finds exactly the frames; a
non-empty sequence always has a boundary. -/
def Obligations.SegmentationTilesTheGaps : Prop :=
  ∀ gaps : List Nat, gaps ≠ [] → TilesGaps (gapThreshold gaps) gaps (framesOf gaps)

/-- R147: the modal length is the length of the first frame whose length is the most frequent; the frames
kept are those of that length, in order. -/
def Obligations.ModalLengthIsFirstMostFrequent : Prop :=
  ∀ frames : List Code, frames ≠ [] →
    (∃ before f after, frames = before ++ f :: after ∧ modalLength frames = f.length ∧
      (∀ g ∈ frames, lengthCount frames g.length ≤ lengthCount frames f.length) ∧
      (∀ g ∈ before, lengthCount frames g.length < lengthCount frames f.length)) ∧
    (keptFrames frames).Sublist frames ∧
    (∀ f ∈ frames, f ∈ keptFrames frames ↔ f.length = modalLength frames)

/-- R140, R148, R149, R152, the successful end of `CAPTURE`: the result object, the store with the code
under the key and every other entry as it was, and `ERR`; nothing of the playback engine changes. (`ET`,
`GS`, `THR`, `FRAMES` are unspecified after the return, R301; log 22.) -/
def Obligations.CaptureSuccessRule : Prop :=
  ∀ (s : State) (ts : List Turn) (gaps : List Nat), s.cfg.valid = true → s.turns = .host :: ts →
    s.capPhase = .reducing → s.et.length = s.cfg.nedges →
    deliveredGaps s.cfg.period s.cfg.nedges s.et = gaps.map Int.ofNat →
    5 ≤ (keptFrames (framesOf gaps)).length →
    ∃ (r : CapResult) (store : Store) (et : List Word) (gs : List Int) (thr : Nat) (frames : List Code),
      step s = .next { s with
        turns := ts, et := et, gs := gs, thr := thr, frames := frames, capResult := r, capPhase := .idle,
        store := store, err := .none, ret := .captured r, draws := s.draws + 1 } ∧
      r.ok = true ∧ r.error = .none ∧ r.framesTotal = (framesOf gaps).length ∧
      r.framesKept = (keptFrames (framesOf gaps)).length ∧
      r.discarded = (framesOf gaps).length - (keptFrames (framesOf gaps)).length ∧
      r.variances = variances (keptFrames (framesOf gaps)) (modalLength (framesOf gaps)) ∧
      (∃ code : Code, storeLookup s.capKey store = some code ∧
        code.length = modalLength (framesOf gaps) ∧
        ∀ i, i < code.length → code[i]? = some
          (roundHalfEven (((keptFrames (framesOf gaps)).map fun f => f.getD i 0).sum)
            (keptFrames (framesOf gaps)).length)) ∧
      ∀ k, k ≠ s.capKey → storeLookup k store = storeLookup k s.store

/-- R146, R148, R152, R241, the failed end of `CAPTURE`: too few frames, or too few of the modal length.
The counts are those of the check that failed; `STORE` and the playback engine are as they were; the
quality is a free value (log 9), drawn by the model's counter. (`ET`, `GS`, `THR`, `FRAMES`: R301; log 22.) -/
def Obligations.CaptureFailureRule : Prop :=
  ∀ (s : State) (ts : List Turn) (gaps : List Nat), s.cfg.valid = true → s.turns = .host :: ts →
    s.capPhase = .reducing → s.et.length = s.cfg.nedges →
    deliveredGaps s.cfg.period s.cfg.nedges s.et = gaps.map Int.ofNat →
    (keptFrames (framesOf gaps)).length < 5 →
    ∃ (r : CapResult) (et : List Word) (gs : List Int) (thr : Nat) (frames : List Code),
      step s = .next { s with
        turns := ts, et := et, gs := gs, thr := thr, frames := frames, capResult := r, capPhase := .idle,
        err := .captureTooFewFrames, ret := .raised (.captureTooFewFrames r), draws := s.draws + 1 } ∧
      r.ok = false ∧ r.error = .captureTooFewFrames ∧ r.framesTotal = (framesOf gaps).length ∧
      ((framesOf gaps).length < 5 → r.framesKept = 0 ∧ r.discarded = 0) ∧
      (5 ≤ (framesOf gaps).length →
        r.framesKept = (keptFrames (framesOf gaps)).length ∧
        r.discarded = (framesOf gaps).length - (keptFrames (framesOf gaps)).length)

/-- R126: a capture with a negative delivered gap is refused. -/
def Obligations.NegativeGapIsRefused : Prop :=
  ∀ (s : State) (ts : List Turn), s.cfg.valid = true → s.turns = .host :: ts → s.capPhase = .reducing →
    s.et.length = s.cfg.nedges → (∃ g ∈ deliveredGaps s.cfg.period s.cfg.nedges s.et, g < 0) →
    step s = .refused .negativeGap

/-- R154 read with R142 and R144: with at least 5 frames of one length and at most 4 of any other, the
capture succeeds, its frames are exactly those bounded by the gaps at or above the threshold, and the
stored code has that length. R154 bounds the frames by `0.8 × max(gaps)`; the threshold here is R142's
rounded one, which R144 segments by. -/
def Obligations.DominantLengthIsCaptured : Prop :=
  ∀ (s : State) (ts : List Turn) (gaps : List Nat) (len : Nat), s.cfg.valid = true → s.turns = .host :: ts →
    s.capPhase = .reducing → s.et.length = s.cfg.nedges →
    deliveredGaps s.cfg.period s.cfg.nedges s.et = gaps.map Int.ofNat →
    5 ≤ lengthCount (framesOf gaps) len →
    (∀ x, x ≠ len → lengthCount (framesOf gaps) x ≤ 4) →
    ∃ t code, step s = .next t ∧ t.err = .none ∧ t.capResult.ok = true ∧
      TilesGaps (gapThreshold gaps) gaps (framesOf gaps) ∧
      storeLookup s.capKey t.store = some code ∧ code.length = len ∧ len = modalLength (framesOf gaps)

/-- R120 to R152 in one run: the host issues `CAPTURE k`, the pin changes level `NEDGES` times less than
`P/2` apart, the host completes the command. The frames of the times between the edges are averaged into
`STORE[k]`; every other entry and the pin are as they were. -/
def Obligations.CaptureRunStoresAverage : Prop :=
  ∀ (s : State) (k : Nat) (polls : List (Nat × Bool)) (ts : List Turn) (bs : List HostAccess)
    (gaps : List Nat), s.cfg.valid = true → s.hostFree = true → s.running = false → k < 2 ^ 24 →
    s.et.length = s.cfg.nedges → s.clock.toNat < s.cfg.period → polls.length = s.cfg.nedges →
    alternates s.rxLevel (polls.map Prod.snd) = true → (∀ p ∈ polls, p.1 < 2 ^ (s.cfg.periodLog2 - 1)) →
    gaps = ((polls.map Prod.fst).drop 1).take (s.cfg.nedges - 2) →
    5 ≤ (keptFrames (framesOf gaps)).length →
    s.turns = .host :: (polls.flatMap pollTurns ++ .host :: ts) →
    s.bus = .write s.cfg.mrcBase 4 (encode (.capture k)) :: bs →
    ∃ t code, run (3 * s.cfg.nedges + 2) s = .next t ∧ t.err = .none ∧ t.capResult.ok = true ∧
      t.capPhase = .idle ∧ t.crit = false ∧ t.turns = ts ∧ t.bus = bs ∧ t.pinLog = s.pinLog ∧
      storeLookup k t.store = some code ∧ code.length = modalLength (framesOf gaps) ∧
      (∀ i, i < code.length → code[i]? = some
        (roundHalfEven (((keptFrames (framesOf gaps)).map fun f => f.getD i 0).sum)
          (keptFrames (framesOf gaps)).length)) ∧
      ∀ k', k' ≠ k → storeLookup k' t.store = storeLookup k' s.store

/-- `CAP_RESULT.quality` as R150 gives it: the mean of the square roots of the variances. -/
noncomputable def Sys2Proof.Machine.qualityOf (v : List Rat) : Real :=
  ((v.map fun (q : Rat) => Real.sqrt (q : Real)).sum) / (v.length : Real)

/-- R151: retained frames that are all the same give that frame and quality exactly 0. -/
def Obligations.IdenticalFramesAverageToThemselves : Prop :=
  ∀ (q : List Rat) (f : Code) (n : Nat), 5 ≤ n → f ≠ [] →
    ∃ r, judgeFrames q (List.replicate n f) = (r, some f) ∧ r.ok = true ∧ r.framesKept = n ∧
      r.discarded = 0 ∧ qualityOf r.variances = 0

/-- R150: the quality is non-negative, and 0 exactly when all retained frames are identical. -/
def Obligations.QualityZeroIffFramesIdentical : Prop :=
  ∀ (kept : List Code) (len : Nat), kept ≠ [] → 0 < len → (∀ f ∈ kept, f.length = len) →
    0 ≤ qualityOf (variances kept len) ∧
    (qualityOf (variances kept len) = 0 ↔ ∀ f ∈ kept, ∀ g ∈ kept, f = g)

/-! Playback (42_playback_build.md, 43_playback_timer.md). -/

/-- R170, R172, R173 under CALLBACK: the buffer, `RUNNING(0)`, the armed timer, and nothing else. -/
def Obligations.TxnbStartsCallbackChain : Prop :=
  ∀ (s : State) (k : Nat) (c : Code), s.hostFree = true → s.running = false →
    storeLookup k s.store = some c → s.cfg.strategy = .callback → s.pb.length = s.pbCap →
    s.cfg.reps * c.length + 1 ≤ s.pbCap → (∀ e ∈ c, e < 2 ^ 32) →
    exec (.txnb k) s = .next { s with
      pb := (repeatCode s.cfg.reps c ++ [0]).map (BitVec.ofNat 32) ++ s.pb.drop (s.cfg.reps * c.length + 1)
      index := 0
      pstate := .running
      timerDur := s.cfg.firstDelay
      timerArmed := true
      err := .none
      ret := .done }

/-- R170, R172, R200, R203, R246 under GENERATOR: the buffer is built; an accepted waveform is loaded and
runs, a rejected one is reported and starts nothing; `PSTATE`, the timer and the pin are as they were. -/
def Obligations.TxnbUnderGeneratorRule : Prop :=
  ∀ (s : State) (k : Nat) (c : Code) (b : List Nat), s.hostFree = true → s.running = false →
    storeLookup k s.store = some c → s.cfg.strategy = .generator →
    b = (if s.cfg.genNativeLoop then c ++ [0] else repeatCode s.cfg.reps c ++ [0]) →
    s.pb.length = s.pbCap → b.length ≤ s.pbCap → (∀ e ∈ c, e < 2 ^ 32) →
    exec (.txnb k) s = .next (
      if s.genAccepts = true then
        { s with
          pb := b.map (BitVec.ofNat 32) ++ s.pb.drop b.length
          genWave := b.map (BitVec.ofNat 32)
          genLoops := if s.cfg.genNativeLoop then s.cfg.reps else 1
          genPos := 0
          genRunning := true
          err := .none
          ret := .done }
      else
        { s with
          pb := b.map (BitVec.ofNat 32) ++ s.pb.drop b.length
          err := .generatorRejected
          ret := .raised .generatorRejected })

/-- R172 element by element: `PB[j] = c[j mod len(c)]` below the sentinel at `REPS × len(c)` (one copy for
a natively looping generator), and the positions above it keep their contents. -/
def Obligations.BuiltBufferElements : Prop :=
  ∀ (s : State) (c : Code) (n : Nat), s.pb.length = s.pbCap → (∀ e ∈ c, e < 2 ^ 32) →
    n = (if s.cfg.strategy = .generator ∧ s.cfg.genNativeLoop = true then c.length
      else s.cfg.reps * c.length) →
    n + 1 ≤ s.pbCap →
    ∃ t, buildBuffer c s = .next t ∧ t = { s with pb := t.pb } ∧ t.pb.length = s.pb.length ∧
      (∀ j, j < n → ∃ d, t.pb[j]? = some d ∧ (c.drop (j % c.length)).head? = some d.toNat) ∧
      t.pb[n]? = some 0 ∧ ∀ j, n < j → t.pb[j]? = s.pb[j]?

/-- R242: an absent key is `UnknownKey` for `TXNB`, `TXB`, `INSPECT`, `DELETE`, with no side effect. -/
def Obligations.AbsentKeyIsUnknownKey : Prop :=
  ∀ (s : State) (k : Nat) (i : Instr), s.hostFree = true → storeLookup k s.store = none →
    (i = .inspect k ∨ i = .delete k ∨ (i = .txnb k ∨ i = .txb k) ∧ s.running = false) →
    exec i s = .next { s with err := .unknownKey, ret := .raised (.unknownKey k) }

/-- R181, R130, R226, R292: every command is refused while the host is inside `CAPTURE` or `TXB`, and
five kinds of command while a transmission runs. -/
def Obligations.RefusedWhileBusy : Prop :=
  ∀ (s : State) (i : Instr),
    ((s.capPhase ≠ .idle ∨ s.txb.isSome = true) → exec i s = .refused .hostInsideCommand) ∧
    (s.capPhase = .idle → s.txb = none → s.running = true →
      ((∃ k, i = .capture k ∨ i = .txnb k ∨ i = .txb k) ∨ (∃ a, i = .config a) ∨ i = .load) →
      exec i s = .refused .transmissionRunning)

/-- R181, R204: content longer than the buffer, and elements above `2^32 − 1`. -/
def Obligations.MisfitCodesAreRefused : Prop :=
  ∀ (s : State) (k : Nat) (c : Code), s.hostFree = true → s.running = false →
    storeLookup k s.store = some c →
    (s.pbCap < (bufferContent s.cfg c).length → exec (.txnb k) s = .refused .contentTooLong) ∧
    ((bufferContent s.cfg c).length ≤ s.pbCap → (∃ e ∈ c, 2 ^ 32 ≤ e) →
      exec (.txnb k) s = .refused .elementTooWide) ∧
    ((∃ e ∈ c, 2 ^ 32 ≤ e) → exec (.txb k) s = .refused .elementTooWide)

/-- R191, R192: the expiry and the callback, on the sentinel and on a duration. (`TIMER_DUR` while unarmed
is unspecified, R301; log 22.) -/
def Obligations.TimerFireRule : Prop :=
  ∀ (s : State) (ts : List Turn) (d : Word), s.cfg.valid = true → s.turns = .timer :: ts →
    s.timerArmed = true → s.crit = false → s.pb[s.index]? = some d →
    ∃ dur, step s = .next (
      if d = 0 then
        { s with turns := ts, timerArmed := false, timerDur := dur, txPin := s.activeLow, pstate := .idle,
                 pinLog := s.pinLog ++ [⟨s.activeLow, none⟩], draws := s.draws + 1 }
      else
        { s with turns := ts, timerArmed := true, timerDur := d, index := s.index + 1,
                 txPin := xor (s.index % 2 == 0) s.activeLow,
                 pinLog := s.pinLog ++ [⟨xor (s.index % 2 == 0) s.activeLow, some d.toNat⟩] })

/-- R196: the waveform of one callback-chain transmission, `n` the position of the first 0. (`TIMER_DUR`
while unarmed is unspecified, R301; log 22.) -/
def Obligations.CallbackChainWaveform : Prop :=
  ∀ (s : State) (b : List Nat) (rest : List Word) (ts : List Turn), s.cfg.valid = true →
    s.pstate = .running → s.index = 0 → s.timerArmed = true → s.crit = false →
    (∀ d ∈ b, 0 < d ∧ d < 2 ^ 32) → s.pb = b.map (BitVec.ofNat 32) ++ 0 :: rest →
    s.turns = List.replicate (b.length + 1) .timer ++ ts →
    ∃ dur, run (b.length + 1) s = .next { s with
      turns := ts
      pstate := .idle
      index := b.length
      timerArmed := false
      timerDur := dur
      draws := s.draws + 1
      txPin := s.activeLow
      pinLog := s.pinLog ++ pulses s.activeLow b ++ [idleEvent s.activeLow] }

/-- R201: the generator step, on a duration, at the end of a loop that is not the last, and at the end. -/
def Obligations.GeneratorStepRule : Prop :=
  ∀ (s : State) (ts : List Turn) (d : Word), s.cfg.valid = true → s.turns = .gen :: ts →
    s.genRunning = true → s.genWave[s.genPos]? = some d →
    step s = .next (
      if d ≠ 0 then
        { s with turns := ts, genPos := s.genPos + 1, txPin := xor (s.genPos % 2 == 0) s.activeLow,
                 pinLog := s.pinLog ++ [⟨xor (s.genPos % 2 == 0) s.activeLow, some d.toNat⟩] }
      else if s.genLoops > 1 then
        { s with turns := ts, genLoops := s.genLoops - 1, genPos := 0 }
      else
        { s with turns := ts, genRunning := false, txPin := s.activeLow,
                 pinLog := s.pinLog ++ [⟨s.activeLow, none⟩] })

/-- R201 over a whole run: every loop starts again on position 0, then the pin goes idle. -/
def Obligations.GeneratorRunWaveform : Prop :=
  ∀ (s : State) (b : List Nat) (rest : List Word) (ts : List Turn), s.cfg.valid = true →
    s.genRunning = true → s.genPos = 0 → 1 ≤ s.genLoops →
    (∀ d ∈ b, 0 < d ∧ d < 2 ^ 32) → s.genWave = b.map (BitVec.ofNat 32) ++ 0 :: rest →
    s.turns = List.replicate (s.genLoops * (b.length + 1)) .gen ++ ts →
    ∃ t, run (s.genLoops * (b.length + 1)) s = .next t ∧
      t.genRunning = false ∧ t.txPin = s.activeLow ∧ t.turns = ts ∧ t.index = s.index ∧
      t.pstate = s.pstate ∧ t.pb = s.pb ∧
      t.pinLog = s.pinLog ++ (List.replicate s.genLoops (pulses s.activeLow b)).flatten ++
        [idleEvent s.activeLow]

/-- R64, R204 up to the first wait: `TXB` enters its critical section and starts the first pulse, a mark,
and for an empty code it runs to its end; the buffer, `INDEX`, `PSTATE` and the timer are as they were. -/
def Obligations.TxbEntersCriticalSection : Prop :=
  ∀ (s : State) (k : Nat) (c : Code), s.cfg.valid = true → s.hostFree = true → s.running = false →
    storeLookup k s.store = some c → (∀ e ∈ c, e < 2 ^ 32) →
    (∀ d r, c = d :: r → exec (.txb k) s = .next { s with
      crit := true, txb := some ⟨c, 1⟩, txPin := !s.activeLow,
      pinLog := s.pinLog ++ [⟨!s.activeLow, some d⟩] }) ∧
    (c = [] → exec (.txb k) s = .next { s with
      crit := false, txPin := s.activeLow, pinLog := s.pinLog ++ [⟨s.activeLow, none⟩],
      err := .none, ret := .done })

/-- R64, R204, R205, a whole `TXB` from the command to its return, with one host turn at the end of every
sleep: one pulse for every position of the repeated code, a 0 included, then idle; nothing else changes,
and the critical section ends. -/
def Obligations.BlockingTransmitWaveform : Prop :=
  ∀ (s : State) (k : Nat) (c : Code) (ts : List Turn), s.cfg.valid = true → s.hostFree = true →
    s.running = false → storeLookup k s.store = some c → (∀ e ∈ c, e < 2 ^ 32) →
    s.turns = List.replicate (s.cfg.reps * c.length) .host ++ ts →
    andThen (exec (.txb k) s) (run (s.cfg.reps * c.length)) = .next { s with
      turns := ts
      crit := false
      err := .none
      ret := .done
      txPin := s.activeLow
      pinLog := s.pinLog ++ pulses s.activeLow (repeatCode s.cfg.reps c) ++ [idleEvent s.activeLow] }

/-- R206: for a code without a 0, the callback chain, the non-looping generator and `TXB` put the same
levels and durations on the pin, and so does the natively looping generator when the code has even
length. -/
def Obligations.TransmitPathsAgree : Prop :=
  ∀ (s : State) (k : Nat) (c : Code), s.cfg.valid = true → s.hostFree = true → s.running = false →
    s.crit = false → k < 2 ^ 24 → storeLookup k s.store = some c → (∀ e ∈ c, 0 < e ∧ e < 2 ^ 32) →
    s.pb.length = s.pbCap → (bufferContent s.cfg c).length ≤ s.pbCap → s.genAccepts = true →
    ∀ sent, sent = s.pinLog ++ pulses s.activeLow (repeatCode s.cfg.reps c) ++ [idleEvent s.activeLow] →
    (∃ t, run (s.cfg.reps * c.length + 1)
        (commandThen s (encode (.txb k)) .host (s.cfg.reps * c.length)) = .next t ∧
      t.pinLog = sent ∧ t.crit = false ∧ t.err = .none) ∧
    (s.cfg.strategy = .callback →
      ∃ t, run (s.cfg.reps * c.length + 2)
        (commandThen s (encode (.txnb k)) .timer (s.cfg.reps * c.length + 1)) = .next t ∧
      t.pinLog = sent ∧ t.running = false ∧ t.err = .none) ∧
    (s.cfg.strategy = .generator → s.cfg.genNativeLoop = false →
      ∃ t, run (s.cfg.reps * c.length + 2)
        (commandThen s (encode (.txnb k)) .gen (s.cfg.reps * c.length + 1)) = .next t ∧
      t.pinLog = sent ∧ t.running = false ∧ t.err = .none) ∧
    (s.cfg.strategy = .generator → s.cfg.genNativeLoop = true → c.length % 2 = 0 →
      ∃ t, run (s.cfg.reps * (c.length + 1) + 1)
        (commandThen s (encode (.txnb k)) .gen (s.cfg.reps * (c.length + 1))) = .next t ∧
      t.pinLog = sent ∧ t.running = false ∧ t.err = .none)

/-- R195, R252: no command admitted during a transmission touches what the chain or the generator reads,
the timer, the pin or the pin record. -/
def Obligations.AdmittedCommandsLeaveChainAlone : Prop :=
  ∀ (s t : State) (i : Instr), s.running = true → exec i s = .next t →
    t.pb = s.pb ∧ t.index = s.index ∧ t.pstate = s.pstate ∧ t.activeLow = s.activeLow ∧
    t.timerArmed = s.timerArmed ∧ t.timerDur = s.timerDur ∧ t.genRunning = s.genRunning ∧
    t.genWave = s.genWave ∧ t.genLoops = s.genLoops ∧ t.genPos = s.genPos ∧ t.txPin = s.txPin ∧
    t.pinLog = s.pinLog ∧ t.crit = s.crit

/-- R176: `LATENCY` returns the stored figure and computes nothing. -/
def Obligations.LatencyReturnsStoredFigure : Prop :=
  ∀ s : State, s.hostFree = true →
    exec .latency s = .next { s with err := .none, ret := .latency s.latencyMs }

/-- R178: `CONFIG a`, on hardware that cannot express it and elsewhere. -/
def Obligations.ConfigRule : Prop :=
  ∀ (s : State) (a : Bool), s.hostFree = true → s.running = false →
    exec (.config a) s = .next (
      if a = true ∧ s.cfg.strategy = .generator ∧ s.cfg.genActiveLowOk = false then
        { s with err := .unsupportedPolarity, ret := .raised .unsupportedPolarity }
      else
        { s with activeLow := a, txPin := a, pinLog := s.pinLog ++ [⟨a, none⟩],
                 err := .none, ret := .done })

/-- R30: `ACTIVE_LOW` is written by `CONFIG` (and by reset) only. -/
def Obligations.OnlyConfigChangesPolarity : Prop :=
  ∀ s t : State, step s = .next t → t.activeLow ≠ s.activeLow →
    (∃ ts, s.turns = .reset :: ts) ∨
    ∃ ts bs w, s.turns = .host :: ts ∧ s.bus = .write s.cfg.mrcBase 4 w :: bs ∧
      decode w = .ok (.config t.activeLow)

/-! The CodeStore (44_store.md). -/

/-- R220: `DELETE` of a present key removes it and no other, and changes nothing else of the machine;
`INSPECT` of it then fails with `UnknownKey`. -/
def Obligations.DeleteRule : Prop :=
  ∀ (s : State) (k : Nat) (c : Code), s.hostFree = true → storeLookup k s.store = some c →
    ∃ store, exec (.delete k) s = .next { s with store := store, err := .none, ret := .done } ∧
      storeLookup k store = none ∧ (∀ k', k' ≠ k → storeLookup k' store = storeLookup k' s.store) ∧
      (storeWf s.store → storeWf store) ∧
      ∃ t, exec (.inspect k) { s with store := store, err := .none, ret := .done } = .next t ∧
        t.err = .unknownKey

/-- R222: `KEYS` returns the domain of the store, each key once. -/
def Obligations.KeysReturnsDomain : Prop :=
  ∀ s : State, s.hostFree = true →
    ∃ ks, exec .keys s = .next { s with err := .none, ret := .keys ks } ∧
      (∀ k, k ∈ ks ↔ storeLookup k s.store ≠ none) ∧ (storeWf s.store → ks.Nodup)

/-- R224: `INSPECT` of a present key returns the stored sequence and changes nothing else; an absent key
is `UnknownKey`. -/
def Obligations.InspectRule : Prop :=
  ∀ (s : State) (k : Nat), s.hostFree = true →
    (∀ c, storeLookup k s.store = some c →
      exec (.inspect k) s = .next { s with err := .none, ret := .code c }) ∧
    (storeLookup k s.store = none →
      exec (.inspect k) s = .next { s with err := .unknownKey, ret := .raised (.unknownKey k) })

/-- R226, the successful `LOAD`: the file's entries replace or join the store's, the three values are
computed over the merged store, the buffer is re-sized to unspecified contents, and nothing else changes
(`draws` is the model's counter), but `INDEX` where the new buffer is too small for it: there R22 and R232
disagree, and it takes some value in range (log 20). -/
def Obligations.LoadMergesAndResizes : Prop :=
  ∀ (s : State) (m : Store), s.hostFree = true → s.running = false → s.file = .mapping m →
    storeWf m → s.mediumReadable = true →
    ∃ (store : Store) (pb : List Word) (index : Nat),
      exec .load s = .next { s with
        store := store
        latencyMs := computeLatency s.cfg.reps store
        maxlen := maxCodeLength store
        pbCap := bufferSize s.cfg (maxCodeLength store)
        pb := pb
        index := index
        draws := s.draws + 1
        err := .none
        ret := .done } ∧
      pb.length = bufferSize s.cfg (maxCodeLength store) ∧
      index < bufferSize s.cfg (maxCodeLength store) ∧
      (s.index < bufferSize s.cfg (maxCodeLength store) → index = s.index) ∧
      (∀ k, storeLookup k store = (storeLookup k m).or (storeLookup k s.store)) ∧
      (storeWf s.store → storeWf store)

/-- R8, R35, R226: after a `LOAD` the buffer has room for every stored code, and `MAXLEN` is the length of
some code (0 for an empty store). -/
def Obligations.LoadedSizesFitEveryCode : Prop :=
  ∀ (s t : State), exec .load s = .next t → t.err = .none →
    (∀ k c, storeLookup k t.store = some c →
      c.length ≤ t.maxlen ∧ (bufferContent t.cfg c).length ≤ t.pbCap) ∧
    (t.store = [] ∧ t.maxlen = 0 ∨ ∃ e ∈ t.store, e.2.length = t.maxlen)

/-- R177: after a `LOAD`, `LATENCY_MS` milliseconds are `(REPS + 2)` times the sum of some code in
microseconds, and at least that of every code; 0 for an empty store. -/
def Obligations.LatencyFigureBoundsEveryCode : Prop :=
  ∀ (s t : State), exec .load s = .next t → t.err = .none →
    (∀ k c, storeLookup k t.store = some c →
      (((t.cfg.reps + 2) * c.sum : Nat) : Rat) ≤ t.latencyMs * 1000) ∧
    (t.store = [] ∧ t.latencyMs = 0 ∨
      ∃ e ∈ t.store, t.latencyMs * 1000 = (((t.cfg.reps + 2) * e.2.sum : Nat) : Rat))

/-- R228, the successful `SAVE`: the whole file is replaced, and nothing else changes. -/
def Obligations.SaveReplacesFile : Prop :=
  ∀ s : State, s.hostFree = true → s.mediumWritable = true →
    exec .save s = .next { s with file := .mapping s.store, err := .none, ret := .done }

/-- R243: a failed `LOAD` and a failed `SAVE` report `StoreIOError` and leave the in-memory state as it
was; the file after a failed `SAVE` is some file (a free value, log 8). -/
def Obligations.StoreIOErrorRule : Prop :=
  (∀ s : State, s.hostFree = true → s.running = false →
    ((∀ m, s.file ≠ .mapping m) ∨ s.mediumReadable = false) →
    exec .load s = .next { s with err := .storeIOError, ret := .raised .storeIO }) ∧
  (∀ s : State, s.hostFree = true → s.mediumWritable = false →
    ∃ f, exec .save s = .next { s with
      file := f, draws := s.draws + 1, err := .storeIOError, ret := .raised .storeIO })

/-- R230: a `SAVE`, then a `LOAD` into an empty store with the file untouched in between, gives the saved
store back. -/
def Obligations.SaveThenLoadRoundTrip : Prop :=
  ∀ s : State, s.hostFree = true → s.mediumWritable = true → storeWf s.store →
    ∃ t, exec .save s = .next t ∧ t.err = .none ∧
      ∀ u : State, u.hostFree = true → u.running = false → u.store = [] → u.file = t.file →
        u.mediumReadable = true →
        ∃ v, exec .load u = .next v ∧ v.err = .none ∧ v.store = s.store

/-! Whole-machine rules. -/

/-- R35: `LATENCY_MS`, `MAXLEN` and `PB_CAP` are recomputed by a `LOAD` (and by reset) and by nothing
else. -/
def Obligations.OnlyLoadRecomputesSizes : Prop :=
  ∀ s t : State, step s = .next t →
    (t.latencyMs ≠ s.latencyMs ∨ t.maxlen ≠ s.maxlen ∨ t.pbCap ≠ s.pbCap) →
    (∃ ts, s.turns = .reset :: ts) ∨
    ∃ ts bs w, s.turns = .host :: ts ∧ s.bus = .write s.cfg.mrcBase 4 w :: bs ∧ decode w = .ok .load

/-- R45 (2), R121, R242, R243: a step that leaves an error kind in `ERR` has not changed `STORE`, unless it
was a reset. -/
def Obligations.FailedOperationsKeepStore : Prop :=
  ∀ s t : State, step s = .next t → t.err ≠ .none → (∀ ts, s.turns ≠ .reset :: ts) →
    t.store = s.store

/-- R34: `STORE` is written by a successful `CAPTURE`, by `DELETE`, by `LOAD` (and by reset), and by no
other step. -/
def Obligations.StoreWritersRule : Prop :=
  ∀ s t : State, step s = .next t → t.store ≠ s.store →
    (∃ ts, s.turns = .reset :: ts) ∨
    ∃ ts, s.turns = .host :: ts ∧
      (s.capPhase = .reducing ∧ t.capResult.ok = true ∨
        ∃ bs w, s.bus = .write s.cfg.mrcBase 4 w :: bs ∧
          ((∃ k, decode w = .ok (.delete k)) ∨ decode w = .ok .load))

/-! The register window (30_encoding.md). -/

/-- R102, R103, R104, R240: what a host read of each readable register gets, and that it changes nothing
else (`rdata` is where the model puts the host's read value, log 21). -/
def Obligations.RegisterReadRule : Prop :=
  ∀ (s : State) (ts : List Turn) (bs : List HostAccess) (off v : Nat), s.cfg.valid = true →
    s.hostFree = true → s.turns = .host :: ts → s.bus = .read (s.cfg.mrcBase + off) 4 :: bs →
    (off, v) ∈ [
      (0x04, (if s.pstate = .running ∨ s.genRunning = true then 1 else 0)
        + (if s.capPhase ≠ .idle then 2 else 0) + (if s.capResult.ok = true then 4 else 0)
        + (if s.activeLow = true then 8 else 0) + (if s.timerArmed = true then 16 else 0)
        + (if s.crit = true then 32 else 0)),
      (0x08, match s.err with
        | .none => 0 | .captureTooFewFrames => 1 | .unknownKey => 2 | .storeIOError => 3
        | .unsupportedPolarity => 4 | .unsupportedPlatform => 5 | .generatorRejected => 6
        | .illegalCommand => 7),
      (0x0C, (if s.activeLow = true then 1 else 0) + (if s.cfg.strategy = .generator then 2 else 0)
        + (if s.cfg.genNativeLoop = true then 4 else 0) + (if s.cfg.genActiveLowOk = true then 8 else 0)),
      (0x10, s.cfg.nedges), (0x14, s.cfg.reps), (0x18, s.maxlen), (0x1C, s.pbCap),
      (0x20, s.capResult.framesTotal), (0x24, s.capResult.framesKept), (0x28, s.capResult.discarded),
      (0x2C, s.index), (0x30, s.edgeX)] →
    step s = if v < 2 ^ 32
      then .next { s with turns := ts, bus := bs, rdata := BitVec.ofNat 32 v }
      else .refused .registerTooWide

/-- R63, R102: the accesses the model refuses: a write to a register other than `CMD`, a read of `CMD`, and
anything but a whole word at a listed offset. -/
def Obligations.BadAccessesAreRefused : Prop :=
  ∀ (s : State) (ts : List Turn) (bs : List HostAccess) (a : HostAccess), s.cfg.valid = true →
    s.hostFree = true → s.turns = .host :: ts → s.bus = a :: bs →
    (∀ off w, a = .write (s.cfg.mrcBase + off) 4 w → off % 4 = 0 → 0x04 ≤ off → off ≤ 0x30 →
      step s = .refused .writeToReadOnly) ∧
    (a = .read s.cfg.mrcBase 4 → step s = .refused .readOfCmd) ∧
    (∀ addr bytes w, (a = .write addr bytes w ∨ a = .read addr bytes) →
      (bytes ≠ 4 ∨ addr < s.cfg.mrcBase ∨ (addr - s.cfg.mrcBase) % 4 ≠ 0 ∨ s.cfg.mrcBase + 0x30 < addr) →
      step s = .refused .badRegisterAccess)
end

