-- ==== Sys2Proof/Laws/State.lean ====
section
/-! SUPPORT. One lemma per field and update of the state, so that no proof unfolds a record update. -/

namespace Sys2Proof.Machine

/-! the end of a capture -/

section
variable (s : State)
@[simp] theorem discardTransients_cfg : (s.discardTransients).cfg = s.cfg := rfl
@[simp] theorem discardTransients_et : (s.discardTransients).et = deadStamps s.cfg s.draws := rfl
@[simp] theorem discardTransients_edgeX : (s.discardTransients).edgeX = s.edgeX := rfl
@[simp] theorem discardTransients_capPhase : (s.discardTransients).capPhase = s.capPhase := rfl
@[simp] theorem discardTransients_lastLevel : (s.discardTransients).lastLevel = s.lastLevel := rfl
@[simp] theorem discardTransients_capKey : (s.discardTransients).capKey = s.capKey := rfl
@[simp] theorem discardTransients_gs : (s.discardTransients).gs = deadGaps s.cfg s.draws := rfl
@[simp] theorem discardTransients_thr : (s.discardTransients).thr = Config.freeThreshold s.draws := rfl
@[simp] theorem discardTransients_frames : (s.discardTransients).frames = Config.freeFrames s.draws := rfl
@[simp] theorem discardTransients_capResult : (s.discardTransients).capResult = s.capResult := rfl
@[simp] theorem discardTransients_pb : (s.discardTransients).pb = s.pb := rfl
@[simp] theorem discardTransients_index : (s.discardTransients).index = s.index := rfl
@[simp] theorem discardTransients_pstate : (s.discardTransients).pstate = s.pstate := rfl
@[simp] theorem discardTransients_activeLow : (s.discardTransients).activeLow = s.activeLow := rfl
@[simp] theorem discardTransients_txPin : (s.discardTransients).txPin = s.txPin := rfl
@[simp] theorem discardTransients_timerArmed : (s.discardTransients).timerArmed = s.timerArmed := rfl
@[simp] theorem discardTransients_timerDur : (s.discardTransients).timerDur = s.timerDur := rfl
@[simp] theorem discardTransients_genRunning : (s.discardTransients).genRunning = s.genRunning := rfl
@[simp] theorem discardTransients_genWave : (s.discardTransients).genWave = s.genWave := rfl
@[simp] theorem discardTransients_genLoops : (s.discardTransients).genLoops = s.genLoops := rfl
@[simp] theorem discardTransients_genPos : (s.discardTransients).genPos = s.genPos := rfl
@[simp] theorem discardTransients_store : (s.discardTransients).store = s.store := rfl
@[simp] theorem discardTransients_latencyMs : (s.discardTransients).latencyMs = s.latencyMs := rfl
@[simp] theorem discardTransients_maxlen : (s.discardTransients).maxlen = s.maxlen := rfl
@[simp] theorem discardTransients_pbCap : (s.discardTransients).pbCap = s.pbCap := rfl
@[simp] theorem discardTransients_err : (s.discardTransients).err = s.err := rfl
@[simp] theorem discardTransients_crit : (s.discardTransients).crit = s.crit := rfl
@[simp] theorem discardTransients_file : (s.discardTransients).file = s.file := rfl
@[simp] theorem discardTransients_rxLevel : (s.discardTransients).rxLevel = s.rxLevel := rfl
@[simp] theorem discardTransients_clock : (s.discardTransients).clock = s.clock := rfl
@[simp] theorem discardTransients_mediumReadable : (s.discardTransients).mediumReadable = s.mediumReadable := rfl
@[simp] theorem discardTransients_mediumWritable : (s.discardTransients).mediumWritable = s.mediumWritable := rfl
@[simp] theorem discardTransients_genAccepts : (s.discardTransients).genAccepts = s.genAccepts := rfl
@[simp] theorem discardTransients_txb : (s.discardTransients).txb = s.txb := rfl
@[simp] theorem discardTransients_ret : (s.discardTransients).ret = s.ret := rfl
@[simp] theorem discardTransients_rdata : (s.discardTransients).rdata = s.rdata := rfl
@[simp] theorem discardTransients_pinLog : (s.discardTransients).pinLog = s.pinLog := rfl
@[simp] theorem discardTransients_turns : (s.discardTransients).turns = s.turns := rfl
@[simp] theorem discardTransients_bus : (s.discardTransients).bus = s.bus := rfl
@[simp] theorem discardTransients_draws : (s.discardTransients).draws = s.draws + 1 := rfl
end

/-! PinWrite -/

section
variable (s : State) (l : Bool) (h : Option Nat)
@[simp] theorem pinWrite_cfg : (s.pinWrite l h).cfg = s.cfg := rfl
@[simp] theorem pinWrite_et : (s.pinWrite l h).et = s.et := rfl
@[simp] theorem pinWrite_edgeX : (s.pinWrite l h).edgeX = s.edgeX := rfl
@[simp] theorem pinWrite_capPhase : (s.pinWrite l h).capPhase = s.capPhase := rfl
@[simp] theorem pinWrite_lastLevel : (s.pinWrite l h).lastLevel = s.lastLevel := rfl
@[simp] theorem pinWrite_capKey : (s.pinWrite l h).capKey = s.capKey := rfl
@[simp] theorem pinWrite_gs : (s.pinWrite l h).gs = s.gs := rfl
@[simp] theorem pinWrite_thr : (s.pinWrite l h).thr = s.thr := rfl
@[simp] theorem pinWrite_frames : (s.pinWrite l h).frames = s.frames := rfl
@[simp] theorem pinWrite_capResult : (s.pinWrite l h).capResult = s.capResult := rfl
@[simp] theorem pinWrite_pb : (s.pinWrite l h).pb = s.pb := rfl
@[simp] theorem pinWrite_index : (s.pinWrite l h).index = s.index := rfl
@[simp] theorem pinWrite_pstate : (s.pinWrite l h).pstate = s.pstate := rfl
@[simp] theorem pinWrite_activeLow : (s.pinWrite l h).activeLow = s.activeLow := rfl
@[simp] theorem pinWrite_txPin : (s.pinWrite l h).txPin = l := rfl
@[simp] theorem pinWrite_timerArmed : (s.pinWrite l h).timerArmed = s.timerArmed := rfl
@[simp] theorem pinWrite_timerDur : (s.pinWrite l h).timerDur = s.timerDur := rfl
@[simp] theorem pinWrite_genRunning : (s.pinWrite l h).genRunning = s.genRunning := rfl
@[simp] theorem pinWrite_genWave : (s.pinWrite l h).genWave = s.genWave := rfl
@[simp] theorem pinWrite_genLoops : (s.pinWrite l h).genLoops = s.genLoops := rfl
@[simp] theorem pinWrite_genPos : (s.pinWrite l h).genPos = s.genPos := rfl
@[simp] theorem pinWrite_store : (s.pinWrite l h).store = s.store := rfl
@[simp] theorem pinWrite_latencyMs : (s.pinWrite l h).latencyMs = s.latencyMs := rfl
@[simp] theorem pinWrite_maxlen : (s.pinWrite l h).maxlen = s.maxlen := rfl
@[simp] theorem pinWrite_pbCap : (s.pinWrite l h).pbCap = s.pbCap := rfl
@[simp] theorem pinWrite_err : (s.pinWrite l h).err = s.err := rfl
@[simp] theorem pinWrite_crit : (s.pinWrite l h).crit = s.crit := rfl
@[simp] theorem pinWrite_file : (s.pinWrite l h).file = s.file := rfl
@[simp] theorem pinWrite_rxLevel : (s.pinWrite l h).rxLevel = s.rxLevel := rfl
@[simp] theorem pinWrite_clock : (s.pinWrite l h).clock = s.clock := rfl
@[simp] theorem pinWrite_mediumReadable : (s.pinWrite l h).mediumReadable = s.mediumReadable := rfl
@[simp] theorem pinWrite_mediumWritable : (s.pinWrite l h).mediumWritable = s.mediumWritable := rfl
@[simp] theorem pinWrite_genAccepts : (s.pinWrite l h).genAccepts = s.genAccepts := rfl
@[simp] theorem pinWrite_txb : (s.pinWrite l h).txb = s.txb := rfl
@[simp] theorem pinWrite_ret : (s.pinWrite l h).ret = s.ret := rfl
@[simp] theorem pinWrite_rdata : (s.pinWrite l h).rdata = s.rdata := rfl
@[simp] theorem pinWrite_pinLog : (s.pinWrite l h).pinLog = s.pinLog ++ [⟨l, h⟩] := rfl
@[simp] theorem pinWrite_turns : (s.pinWrite l h).turns = s.turns := rfl
@[simp] theorem pinWrite_bus : (s.pinWrite l h).bus = s.bus := rfl
@[simp] theorem pinWrite_draws : (s.pinWrite l h).draws = s.draws := rfl
end

/-! ScheduleOnce -/

section
variable (s : State) (d : Word)
@[simp] theorem scheduleOnce_cfg : (s.scheduleOnce d).cfg = s.cfg := rfl
@[simp] theorem scheduleOnce_et : (s.scheduleOnce d).et = s.et := rfl
@[simp] theorem scheduleOnce_edgeX : (s.scheduleOnce d).edgeX = s.edgeX := rfl
@[simp] theorem scheduleOnce_capPhase : (s.scheduleOnce d).capPhase = s.capPhase := rfl
@[simp] theorem scheduleOnce_lastLevel : (s.scheduleOnce d).lastLevel = s.lastLevel := rfl
@[simp] theorem scheduleOnce_capKey : (s.scheduleOnce d).capKey = s.capKey := rfl
@[simp] theorem scheduleOnce_gs : (s.scheduleOnce d).gs = s.gs := rfl
@[simp] theorem scheduleOnce_thr : (s.scheduleOnce d).thr = s.thr := rfl
@[simp] theorem scheduleOnce_frames : (s.scheduleOnce d).frames = s.frames := rfl
@[simp] theorem scheduleOnce_capResult : (s.scheduleOnce d).capResult = s.capResult := rfl
@[simp] theorem scheduleOnce_pb : (s.scheduleOnce d).pb = s.pb := rfl
@[simp] theorem scheduleOnce_index : (s.scheduleOnce d).index = s.index := rfl
@[simp] theorem scheduleOnce_pstate : (s.scheduleOnce d).pstate = s.pstate := rfl
@[simp] theorem scheduleOnce_activeLow : (s.scheduleOnce d).activeLow = s.activeLow := rfl
@[simp] theorem scheduleOnce_txPin : (s.scheduleOnce d).txPin = s.txPin := rfl
@[simp] theorem scheduleOnce_timerArmed : (s.scheduleOnce d).timerArmed = true := rfl
@[simp] theorem scheduleOnce_timerDur : (s.scheduleOnce d).timerDur = d := rfl
@[simp] theorem scheduleOnce_genRunning : (s.scheduleOnce d).genRunning = s.genRunning := rfl
@[simp] theorem scheduleOnce_genWave : (s.scheduleOnce d).genWave = s.genWave := rfl
@[simp] theorem scheduleOnce_genLoops : (s.scheduleOnce d).genLoops = s.genLoops := rfl
@[simp] theorem scheduleOnce_genPos : (s.scheduleOnce d).genPos = s.genPos := rfl
@[simp] theorem scheduleOnce_store : (s.scheduleOnce d).store = s.store := rfl
@[simp] theorem scheduleOnce_latencyMs : (s.scheduleOnce d).latencyMs = s.latencyMs := rfl
@[simp] theorem scheduleOnce_maxlen : (s.scheduleOnce d).maxlen = s.maxlen := rfl
@[simp] theorem scheduleOnce_pbCap : (s.scheduleOnce d).pbCap = s.pbCap := rfl
@[simp] theorem scheduleOnce_err : (s.scheduleOnce d).err = s.err := rfl
@[simp] theorem scheduleOnce_crit : (s.scheduleOnce d).crit = s.crit := rfl
@[simp] theorem scheduleOnce_file : (s.scheduleOnce d).file = s.file := rfl
@[simp] theorem scheduleOnce_rxLevel : (s.scheduleOnce d).rxLevel = s.rxLevel := rfl
@[simp] theorem scheduleOnce_clock : (s.scheduleOnce d).clock = s.clock := rfl
@[simp] theorem scheduleOnce_mediumReadable : (s.scheduleOnce d).mediumReadable = s.mediumReadable := rfl
@[simp] theorem scheduleOnce_mediumWritable : (s.scheduleOnce d).mediumWritable = s.mediumWritable := rfl
@[simp] theorem scheduleOnce_genAccepts : (s.scheduleOnce d).genAccepts = s.genAccepts := rfl
@[simp] theorem scheduleOnce_txb : (s.scheduleOnce d).txb = s.txb := rfl
@[simp] theorem scheduleOnce_ret : (s.scheduleOnce d).ret = s.ret := rfl
@[simp] theorem scheduleOnce_rdata : (s.scheduleOnce d).rdata = s.rdata := rfl
@[simp] theorem scheduleOnce_pinLog : (s.scheduleOnce d).pinLog = s.pinLog := rfl
@[simp] theorem scheduleOnce_turns : (s.scheduleOnce d).turns = s.turns := rfl
@[simp] theorem scheduleOnce_bus : (s.scheduleOnce d).bus = s.bus := rfl
@[simp] theorem scheduleOnce_draws : (s.scheduleOnce d).draws = s.draws := rfl
end

/-! the callback entry -/

section
variable (s : State)
@[simp] theorem enterCallback_cfg : (s.enterCallback).cfg = s.cfg := rfl
@[simp] theorem enterCallback_et : (s.enterCallback).et = s.et := rfl
@[simp] theorem enterCallback_edgeX : (s.enterCallback).edgeX = s.edgeX := rfl
@[simp] theorem enterCallback_capPhase : (s.enterCallback).capPhase = s.capPhase := rfl
@[simp] theorem enterCallback_lastLevel : (s.enterCallback).lastLevel = s.lastLevel := rfl
@[simp] theorem enterCallback_capKey : (s.enterCallback).capKey = s.capKey := rfl
@[simp] theorem enterCallback_gs : (s.enterCallback).gs = s.gs := rfl
@[simp] theorem enterCallback_thr : (s.enterCallback).thr = s.thr := rfl
@[simp] theorem enterCallback_frames : (s.enterCallback).frames = s.frames := rfl
@[simp] theorem enterCallback_capResult : (s.enterCallback).capResult = s.capResult := rfl
@[simp] theorem enterCallback_pb : (s.enterCallback).pb = s.pb := rfl
@[simp] theorem enterCallback_index : (s.enterCallback).index = s.index := rfl
@[simp] theorem enterCallback_pstate : (s.enterCallback).pstate = s.pstate := rfl
@[simp] theorem enterCallback_activeLow : (s.enterCallback).activeLow = s.activeLow := rfl
@[simp] theorem enterCallback_txPin : (s.enterCallback).txPin = s.txPin := rfl
@[simp] theorem enterCallback_timerArmed : (s.enterCallback).timerArmed = false := rfl
@[simp] theorem enterCallback_timerDur : (s.enterCallback).timerDur = s.timerDur := rfl
@[simp] theorem enterCallback_genRunning : (s.enterCallback).genRunning = s.genRunning := rfl
@[simp] theorem enterCallback_genWave : (s.enterCallback).genWave = s.genWave := rfl
@[simp] theorem enterCallback_genLoops : (s.enterCallback).genLoops = s.genLoops := rfl
@[simp] theorem enterCallback_genPos : (s.enterCallback).genPos = s.genPos := rfl
@[simp] theorem enterCallback_store : (s.enterCallback).store = s.store := rfl
@[simp] theorem enterCallback_latencyMs : (s.enterCallback).latencyMs = s.latencyMs := rfl
@[simp] theorem enterCallback_maxlen : (s.enterCallback).maxlen = s.maxlen := rfl
@[simp] theorem enterCallback_pbCap : (s.enterCallback).pbCap = s.pbCap := rfl
@[simp] theorem enterCallback_err : (s.enterCallback).err = s.err := rfl
@[simp] theorem enterCallback_crit : (s.enterCallback).crit = s.crit := rfl
@[simp] theorem enterCallback_file : (s.enterCallback).file = s.file := rfl
@[simp] theorem enterCallback_rxLevel : (s.enterCallback).rxLevel = s.rxLevel := rfl
@[simp] theorem enterCallback_clock : (s.enterCallback).clock = s.clock := rfl
@[simp] theorem enterCallback_mediumReadable : (s.enterCallback).mediumReadable = s.mediumReadable := rfl
@[simp] theorem enterCallback_mediumWritable : (s.enterCallback).mediumWritable = s.mediumWritable := rfl
@[simp] theorem enterCallback_genAccepts : (s.enterCallback).genAccepts = s.genAccepts := rfl
@[simp] theorem enterCallback_txb : (s.enterCallback).txb = s.txb := rfl
@[simp] theorem enterCallback_ret : (s.enterCallback).ret = s.ret := rfl
@[simp] theorem enterCallback_rdata : (s.enterCallback).rdata = s.rdata := rfl
@[simp] theorem enterCallback_pinLog : (s.enterCallback).pinLog = s.pinLog := rfl
@[simp] theorem enterCallback_turns : (s.enterCallback).turns = s.turns := rfl
@[simp] theorem enterCallback_bus : (s.enterCallback).bus = s.bus := rfl
@[simp] theorem enterCallback_draws : (s.enterCallback).draws = s.draws := rfl
end

/-! raise -/

section
variable (s : State) (x : Raised)
@[simp] theorem raise_cfg : (s.raise x).cfg = s.cfg := rfl
@[simp] theorem raise_et : (s.raise x).et = s.et := rfl
@[simp] theorem raise_edgeX : (s.raise x).edgeX = s.edgeX := rfl
@[simp] theorem raise_capPhase : (s.raise x).capPhase = x.phaseAfter s.capPhase := rfl
@[simp] theorem raise_lastLevel : (s.raise x).lastLevel = s.lastLevel := rfl
@[simp] theorem raise_capKey : (s.raise x).capKey = s.capKey := rfl
@[simp] theorem raise_gs : (s.raise x).gs = s.gs := rfl
@[simp] theorem raise_thr : (s.raise x).thr = s.thr := rfl
@[simp] theorem raise_frames : (s.raise x).frames = s.frames := rfl
@[simp] theorem raise_capResult : (s.raise x).capResult = s.capResult := rfl
@[simp] theorem raise_pb : (s.raise x).pb = s.pb := rfl
@[simp] theorem raise_index : (s.raise x).index = s.index := rfl
@[simp] theorem raise_pstate : (s.raise x).pstate = s.pstate := rfl
@[simp] theorem raise_activeLow : (s.raise x).activeLow = s.activeLow := rfl
@[simp] theorem raise_txPin : (s.raise x).txPin = s.txPin := rfl
@[simp] theorem raise_timerArmed : (s.raise x).timerArmed = s.timerArmed := rfl
@[simp] theorem raise_timerDur : (s.raise x).timerDur = s.timerDur := rfl
@[simp] theorem raise_genRunning : (s.raise x).genRunning = s.genRunning := rfl
@[simp] theorem raise_genWave : (s.raise x).genWave = s.genWave := rfl
@[simp] theorem raise_genLoops : (s.raise x).genLoops = s.genLoops := rfl
@[simp] theorem raise_genPos : (s.raise x).genPos = s.genPos := rfl
@[simp] theorem raise_store : (s.raise x).store = s.store := rfl
@[simp] theorem raise_latencyMs : (s.raise x).latencyMs = s.latencyMs := rfl
@[simp] theorem raise_maxlen : (s.raise x).maxlen = s.maxlen := rfl
@[simp] theorem raise_pbCap : (s.raise x).pbCap = s.pbCap := rfl
@[simp] theorem raise_err : (s.raise x).err = x.kind := rfl
@[simp] theorem raise_crit : (s.raise x).crit = s.crit := rfl
@[simp] theorem raise_file : (s.raise x).file = s.file := rfl
@[simp] theorem raise_rxLevel : (s.raise x).rxLevel = s.rxLevel := rfl
@[simp] theorem raise_clock : (s.raise x).clock = s.clock := rfl
@[simp] theorem raise_mediumReadable : (s.raise x).mediumReadable = s.mediumReadable := rfl
@[simp] theorem raise_mediumWritable : (s.raise x).mediumWritable = s.mediumWritable := rfl
@[simp] theorem raise_genAccepts : (s.raise x).genAccepts = s.genAccepts := rfl
@[simp] theorem raise_txb : (s.raise x).txb = s.txb := rfl
@[simp] theorem raise_ret : (s.raise x).ret = .raised x := rfl
@[simp] theorem raise_rdata : (s.raise x).rdata = s.rdata := rfl
@[simp] theorem raise_pinLog : (s.raise x).pinLog = s.pinLog := rfl
@[simp] theorem raise_turns : (s.raise x).turns = s.turns := rfl
@[simp] theorem raise_bus : (s.raise x).bus = s.bus := rfl
@[simp] theorem raise_draws : (s.raise x).draws = s.draws := rfl
end

/-! the end of a command without an error -/

section
variable (s : State) (r : Ret)
@[simp] theorem succeed_cfg : (s.succeed r).cfg = s.cfg := rfl
@[simp] theorem succeed_et : (s.succeed r).et = s.et := rfl
@[simp] theorem succeed_edgeX : (s.succeed r).edgeX = s.edgeX := rfl
@[simp] theorem succeed_capPhase : (s.succeed r).capPhase = s.capPhase := rfl
@[simp] theorem succeed_lastLevel : (s.succeed r).lastLevel = s.lastLevel := rfl
@[simp] theorem succeed_capKey : (s.succeed r).capKey = s.capKey := rfl
@[simp] theorem succeed_gs : (s.succeed r).gs = s.gs := rfl
@[simp] theorem succeed_thr : (s.succeed r).thr = s.thr := rfl
@[simp] theorem succeed_frames : (s.succeed r).frames = s.frames := rfl
@[simp] theorem succeed_capResult : (s.succeed r).capResult = s.capResult := rfl
@[simp] theorem succeed_pb : (s.succeed r).pb = s.pb := rfl
@[simp] theorem succeed_index : (s.succeed r).index = s.index := rfl
@[simp] theorem succeed_pstate : (s.succeed r).pstate = s.pstate := rfl
@[simp] theorem succeed_activeLow : (s.succeed r).activeLow = s.activeLow := rfl
@[simp] theorem succeed_txPin : (s.succeed r).txPin = s.txPin := rfl
@[simp] theorem succeed_timerArmed : (s.succeed r).timerArmed = s.timerArmed := rfl
@[simp] theorem succeed_timerDur : (s.succeed r).timerDur = s.timerDur := rfl
@[simp] theorem succeed_genRunning : (s.succeed r).genRunning = s.genRunning := rfl
@[simp] theorem succeed_genWave : (s.succeed r).genWave = s.genWave := rfl
@[simp] theorem succeed_genLoops : (s.succeed r).genLoops = s.genLoops := rfl
@[simp] theorem succeed_genPos : (s.succeed r).genPos = s.genPos := rfl
@[simp] theorem succeed_store : (s.succeed r).store = s.store := rfl
@[simp] theorem succeed_latencyMs : (s.succeed r).latencyMs = s.latencyMs := rfl
@[simp] theorem succeed_maxlen : (s.succeed r).maxlen = s.maxlen := rfl
@[simp] theorem succeed_pbCap : (s.succeed r).pbCap = s.pbCap := rfl
@[simp] theorem succeed_err : (s.succeed r).err = .none := rfl
@[simp] theorem succeed_crit : (s.succeed r).crit = s.crit := rfl
@[simp] theorem succeed_file : (s.succeed r).file = s.file := rfl
@[simp] theorem succeed_rxLevel : (s.succeed r).rxLevel = s.rxLevel := rfl
@[simp] theorem succeed_clock : (s.succeed r).clock = s.clock := rfl
@[simp] theorem succeed_mediumReadable : (s.succeed r).mediumReadable = s.mediumReadable := rfl
@[simp] theorem succeed_mediumWritable : (s.succeed r).mediumWritable = s.mediumWritable := rfl
@[simp] theorem succeed_genAccepts : (s.succeed r).genAccepts = s.genAccepts := rfl
@[simp] theorem succeed_txb : (s.succeed r).txb = s.txb := rfl
@[simp] theorem succeed_ret : (s.succeed r).ret = r := rfl
@[simp] theorem succeed_rdata : (s.succeed r).rdata = s.rdata := rfl
@[simp] theorem succeed_pinLog : (s.succeed r).pinLog = s.pinLog := rfl
@[simp] theorem succeed_turns : (s.succeed r).turns = s.turns := rfl
@[simp] theorem succeed_bus : (s.succeed r).bus = s.bus := rfl
@[simp] theorem succeed_draws : (s.succeed r).draws = s.draws := rfl
end

/-! reset -/

section
variable (s : State)
@[simp] theorem resetFrom_cfg : s.resetFrom.cfg = s.cfg := rfl
@[simp] theorem resetFrom_file : s.resetFrom.file = s.file := rfl
@[simp] theorem resetFrom_rxLevel : s.resetFrom.rxLevel = s.rxLevel := rfl
@[simp] theorem resetFrom_clock : s.resetFrom.clock = s.clock := rfl
@[simp] theorem resetFrom_mediumReadable : s.resetFrom.mediumReadable = s.mediumReadable := rfl
@[simp] theorem resetFrom_mediumWritable : s.resetFrom.mediumWritable = s.mediumWritable := rfl
@[simp] theorem resetFrom_genAccepts : s.resetFrom.genAccepts = s.genAccepts := rfl
@[simp] theorem resetFrom_turns : s.resetFrom.turns = s.turns := rfl
@[simp] theorem resetFrom_bus : s.resetFrom.bus = s.bus := rfl
@[simp] theorem resetFrom_draws : s.resetFrom.draws = s.draws := rfl
@[simp] theorem resetFrom_edgeX : s.resetFrom.edgeX = 0 := rfl
@[simp] theorem resetFrom_capPhase : s.resetFrom.capPhase = .idle := rfl
@[simp] theorem resetFrom_pstate : s.resetFrom.pstate = .idle := rfl
@[simp] theorem resetFrom_index : s.resetFrom.index = 0 := rfl
@[simp] theorem resetFrom_activeLow : s.resetFrom.activeLow = false := rfl
@[simp] theorem resetFrom_txPin : s.resetFrom.txPin = false := rfl
@[simp] theorem resetFrom_timerArmed : s.resetFrom.timerArmed = false := rfl
@[simp] theorem resetFrom_genRunning : s.resetFrom.genRunning = false := rfl
@[simp] theorem resetFrom_store : s.resetFrom.store = [] := rfl
@[simp] theorem resetFrom_latencyMs : s.resetFrom.latencyMs = 0 := rfl
@[simp] theorem resetFrom_maxlen : s.resetFrom.maxlen = 0 := rfl
@[simp] theorem resetFrom_pbCap : s.resetFrom.pbCap = 1 := rfl
@[simp] theorem resetFrom_err : s.resetFrom.err = .none := rfl
@[simp] theorem resetFrom_crit : s.resetFrom.crit = false := rfl
@[simp] theorem resetFrom_txb : s.resetFrom.txb = none := rfl
@[simp] theorem resetFrom_capResult : s.resetFrom.capResult = CapResult.cleared := rfl
@[simp] theorem resetFrom_pinLog : s.resetFrom.pinLog = s.pinLog ++ [⟨false, none⟩] := rfl
end

end Sys2Proof.Machine
end

