-- ==== Sys2Proof/Laws/Outcomes.lean ====
section
/-! SUPPORT. What each shared operation and each command can answer, said once. -/

namespace Sys2Proof.Machine

theorem hostFree_iff {s : State} : s.hostFree = true ↔ s.capPhase = .idle ∧ s.txb = none := by
  simp [State.hostFree]

theorem running_eq_false {s : State} :
    s.running = false ↔ s.pstate ≠ .running ∧ s.genRunning = false := by
  simp [State.running]

theorem pstate_idle_of_not_running {s : State} (h : s.running = false) : s.pstate = .idle := by
  have := (running_eq_false.1 h).1
  cases hp : s.pstate <;> simp_all

/-! The shared guards. -/

@[simp] theorem whenFree_of_free {s : State} {r : Result} (h : s.hostFree = true) : whenFree s r = r := by
  simp [whenFree, h]

@[simp] theorem whenQuiet_of_quiet {s : State} {r : Result} (h : s.hostFree = true)
    (hr : s.running = false) : whenQuiet s r = r := by
  simp [whenQuiet, h, hr]

theorem whenFree_cases (s : State) (r : Result) :
    (s.hostFree = true ∧ whenFree s r = r) ∨
    (s.hostFree = false ∧ whenFree s r = .refused .hostInsideCommand) := by
  unfold whenFree; cases s.hostFree <;> simp

theorem whenQuiet_cases (s : State) (r : Result) :
    (s.hostFree = true ∧ s.running = false ∧ whenQuiet s r = r) ∨
    (s.hostFree = true ∧ s.running = true ∧ whenQuiet s r = .refused .transmissionRunning) ∨
    (s.hostFree = false ∧ whenQuiet s r = .refused .hostInsideCommand) := by
  unfold whenQuiet whenFree; cases s.hostFree <;> cases s.running <;> simp

theorem whenFree_next {s t : State} {r : Result} (h : whenFree s r = .next t) :
    s.hostFree = true ∧ r = .next t := by
  rcases whenFree_cases s r with ⟨h1, h2⟩ | ⟨_, h2⟩ <;> simp_all

theorem whenQuiet_next {s t : State} {r : Result} (h : whenQuiet s r = .next t) :
    s.hostFree = true ∧ s.running = false ∧ r = .next t := by
  rcases whenQuiet_cases s r with ⟨h1, h2, h3⟩ | ⟨_, _, h3⟩ | ⟨_, h3⟩ <;> simp_all

theorem withCode_of_some {k : Nat} {s : State} {c : Code} {f : Code → Result}
    (h : storeLookup k s.store = some c) : withCode k s f = f c := by
  simp [withCode, h]

theorem withCode_of_none {k : Nat} {s : State} {f : Code → Result}
    (h : storeLookup k s.store = none) : withCode k s f = .next (s.raise (.unknownKey k)) := by
  simp [withCode, h]

theorem withCode_cases (k : Nat) (s : State) (f : Code → Result) :
    (storeLookup k s.store = none ∧ withCode k s f = .next (s.raise (.unknownKey k))) ∨
    ∃ c, storeLookup k s.store = some c ∧ withCode k s f = f c := by
  cases h : storeLookup k s.store with
  | none => exact .inl ⟨rfl, withCode_of_none h⟩
  | some c => exact .inr ⟨c, rfl, withCode_of_some h⟩

theorem withCode_next {k : Nat} {s t : State} {f : Code → Result} (h : withCode k s f = .next t) :
    (storeLookup k s.store = none ∧ t = s.raise (.unknownKey k)) ∨
    ∃ c, storeLookup k s.store = some c ∧ f c = .next t := by
  rcases withCode_cases k s f with ⟨hn, he⟩ | ⟨c, hc, he⟩
  · exact .inl ⟨hn, by simpa using (he.symm.trans h).symm⟩
  · exact .inr ⟨c, hc, he.symm.trans h⟩

theorem andThen_next {o : Result} {f : State → Result} {t : State} (h : andThen o f = .next t) :
    ∃ u, o = .next u ∧ f u = .next t := by
  cases o <;> simp_all [andThen]

/-- R172: when the buffer is built, the content fits, and only `PB` has changed. -/
theorem buildBuffer_next {c : Code} {s t : State} (h : buildBuffer c s = .next t) :
    (bufferContent s.cfg c).length ≤ s.pbCap ∧ fitsU32 c = true ∧
    t = { s with
      pb := (bufferContent s.cfg c).map (BitVec.ofNat 32) ++ s.pb.drop (bufferContent s.cfg c).length } := by
  unfold buildBuffer at h
  split at h
  · split at h
    · split at h
      · exact ⟨‹_›, ‹_›, by simpa using h.symm⟩
      · cases h
    · cases h
  · cases h

/-- R172: content that fits is built. -/
theorem buildBuffer_of_fits {c : Code} {s : State} (h : (bufferContent s.cfg c).length ≤ s.pbCap)
    (hf : fitsU32 c = true) (hl : (bufferContent s.cfg c).length ≤ s.pb.length) :
    buildBuffer c s = .next { s with
      pb := (bufferContent s.cfg c).map (BitVec.ofNat 32) ++ s.pb.drop (bufferContent s.cfg c).length } := by
  simp [buildBuffer, h, hf, hl]

theorem fitsU32_iff {c : Code} : fitsU32 c = true ↔ ∀ e ∈ c, e < 2 ^ 32 := by
  simp [fitsU32]

theorem nativeLoop_iff {cfg : Config} :
    nativeLoop cfg = true ↔ cfg.strategy = .generator ∧ cfg.genNativeLoop = true := by
  simp [nativeLoop]

theorem repeatCode_length (n : Nat) (c : Code) : (repeatCode n c).length = n * c.length := by
  simp [repeatCode]

theorem bufferContent_length (cfg : Config) (c : Code) : (bufferContent cfg c).length =
    if nativeLoop cfg = true then c.length + 1 else cfg.reps * c.length + 1 := by
  unfold bufferContent
  split <;> simp [repeatCode_length]

/-! Each command: if it answers a next state, then this holds. -/

theorem execCapture_next {k : Nat} {s t : State} (h : execCapture k s = .next t) :
    s.hostFree = true ∧ s.running = false ∧
    t = { s with capKey := k, edgeX := 0, lastLevel := s.rxLevel, crit := true, capPhase := .sampling } := by
  obtain ⟨h1, h2, h3⟩ := whenQuiet_next h
  exact ⟨h1, h2, by simpa using h3.symm⟩

theorem execTxnb_next {k : Nat} {s t : State} (h : execTxnb k s = .next t) :
    s.hostFree = true ∧ s.running = false ∧
    ((storeLookup k s.store = none ∧ t = s.raise (.unknownKey k)) ∨
      ∃ c u, storeLookup k s.store = some c ∧ buildBuffer c s = .next u ∧
        t = startTransmission (bufferContent s.cfg c).length u) := by
  obtain ⟨h1, h2, h3⟩ := whenQuiet_next h
  refine ⟨h1, h2, ?_⟩
  rcases withCode_next h3 with hn | ⟨c, hc, h3⟩
  · exact .inl hn
  · obtain ⟨u, hu, ht⟩ := andThen_next h3
    exact .inr ⟨c, u, hc, hu, by simpa using ht.symm⟩

theorem startTransmission_callback {len : Nat} {s : State} (h : s.cfg.strategy = .callback) :
    startTransmission len s = (startChain s).succeed .done := by
  unfold startTransmission; rw [h]

theorem startTransmission_generator {len : Nat} {s : State} (h : s.cfg.strategy = .generator) :
    startTransmission len s = loadAndRun len s := by
  unfold startTransmission; rw [h]

/-- R170: a stored code that fits is built into the buffer and started. -/
theorem execTxnb_of_fits {k : Nat} {s : State} {c : Code} (h : s.hostFree = true)
    (hr : s.running = false) (hc : storeLookup k s.store = some c)
    (hn : (bufferContent s.cfg c).length ≤ s.pbCap) (hf : fitsU32 c = true)
    (hl : (bufferContent s.cfg c).length ≤ s.pb.length) :
    execTxnb k s = .next (startTransmission (bufferContent s.cfg c).length { s with
      pb := (bufferContent s.cfg c).map (BitVec.ofNat 32) ++ s.pb.drop (bufferContent s.cfg c).length }) := by
  unfold execTxnb
  rw [whenQuiet_of_quiet h hr, withCode_of_some hc, buildBuffer_of_fits hn hf hl]
  rfl

/-- R204: a stored code that fits starts the blocking transmission and runs to its first sleep. -/
theorem execTxb_of_fits {k : Nat} {s : State} {c : Code} (h : s.hostFree = true)
    (hr : s.running = false) (hc : storeLookup k s.store = some c) (hf : fitsU32 c = true) :
    execTxb k s = .next (txbStep ⟨c, 0⟩ { s with crit := true }) := by
  unfold execTxb
  rw [whenQuiet_of_quiet h hr, withCode_of_some hc, if_pos hf]

theorem execTxb_next {k : Nat} {s t : State} (h : execTxb k s = .next t) :
    s.hostFree = true ∧ s.running = false ∧
    ((storeLookup k s.store = none ∧ t = s.raise (.unknownKey k)) ∨
      ∃ c, storeLookup k s.store = some c ∧ fitsU32 c = true ∧
        t = txbStep ⟨c, 0⟩ { s with crit := true }) := by
  obtain ⟨h1, h2, h3⟩ := whenQuiet_next h
  refine ⟨h1, h2, ?_⟩
  rcases withCode_next h3 with hn | ⟨c, hc, h3⟩
  · exact .inl hn
  · split at h3
    · exact .inr ⟨c, hc, ‹_›, by simpa using h3.symm⟩
    · cases h3

theorem execLatency_next {s t : State} (h : execLatency s = .next t) :
    s.hostFree = true ∧ t = s.succeed (.latency s.latencyMs) := by
  obtain ⟨h1, h2⟩ := whenFree_next h
  exact ⟨h1, by simpa using h2.symm⟩

theorem execConfig_next {a : Bool} {s t : State} (h : execConfig a s = .next t) :
    s.hostFree = true ∧ s.running = false ∧
    ((polarityUnsupported s.cfg a = true ∧ t = s.raise .unsupportedPolarity) ∨
      (polarityUnsupported s.cfg a = false ∧
        t = State.succeed (State.pinWrite { s with activeLow := a } a none) .done)) := by
  obtain ⟨h1, h2, h3⟩ := whenQuiet_next h
  refine ⟨h1, h2, ?_⟩
  split at h3
  · exact .inl ⟨‹_›, by simpa using h3.symm⟩
  · exact .inr ⟨by simp_all, by simpa using h3.symm⟩

theorem execDelete_next {k : Nat} {s t : State} (h : execDelete k s = .next t) :
    s.hostFree = true ∧
    ((storeLookup k s.store = none ∧ t = s.raise (.unknownKey k)) ∨
      (storeLookup k s.store ≠ none ∧
        t = State.succeed { s with store := storeErase k s.store } .done)) := by
  obtain ⟨h1, h2⟩ := whenFree_next h
  refine ⟨h1, ?_⟩
  rcases withCode_next h2 with hn | ⟨c, hc, h3⟩
  · exact .inl hn
  · exact .inr ⟨by simp [hc], by simpa using h3.symm⟩

theorem execKeys_next {s t : State} (h : execKeys s = .next t) :
    s.hostFree = true ∧ t = s.succeed (.keys (storeKeys s.store)) := by
  obtain ⟨h1, h2⟩ := whenFree_next h
  exact ⟨h1, by simpa using h2.symm⟩

theorem execInspect_next {k : Nat} {s t : State} (h : execInspect k s = .next t) :
    s.hostFree = true ∧
    ((storeLookup k s.store = none ∧ t = s.raise (.unknownKey k)) ∨
      ∃ c, storeLookup k s.store = some c ∧ t = s.succeed (.code c)) := by
  obtain ⟨h1, h2⟩ := whenFree_next h
  refine ⟨h1, ?_⟩
  rcases withCode_next h2 with hn | ⟨c, hc, h3⟩
  · exact .inl hn
  · exact .inr ⟨c, hc, by simpa using h3.symm⟩

theorem execLoad_next {s t : State} (h : execLoad s = .next t) :
    s.hostFree = true ∧ s.running = false ∧
    ((s.fileRead = none ∧ t = s.raise .storeIO) ∨
      ∃ m, s.fileRead = some m ∧ t = (installStore (storeMerge s.store m) s).succeed .done) := by
  obtain ⟨h1, h2, h3⟩ := whenQuiet_next h
  refine ⟨h1, h2, ?_⟩
  split at h3
  · exact .inl ⟨‹_›, by simpa using h3.symm⟩
  · exact .inr ⟨_, ‹_›, by simpa using h3.symm⟩

theorem execSave_next {s t : State} (h : execSave s = .next t) :
    s.hostFree = true ∧
    ((s.mediumWritable = true ∧ t = State.succeed { s with file := .mapping s.store } .done) ∨
      (s.mediumWritable = false ∧
        t = State.raise { s with file := Config.freeFile s.draws, draws := s.draws + 1 } .storeIO)) := by
  obtain ⟨h1, h2⟩ := whenFree_next h
  refine ⟨h1, ?_⟩
  split at h2
  · exact .inl ⟨‹_›, by simpa using h2.symm⟩
  · exact .inr ⟨by simp_all, by simpa using h2.symm⟩

/-- A `TXB` before its last position starts the next pulse (R204). -/
theorem txbStep_of_lt {r : TxbRun} {s : State} (h : r.pos < s.cfg.reps * r.code.length) :
    txbStep r s =
      { s.pinWrite (levelOf s.activeLow r.pos) (some (r.code.getD (r.pos % r.code.length) 0)) with
        txb := some ⟨r.code, r.pos + 1⟩ } := by
  unfold txbStep; rw [if_pos h]

/-- A `TXB` past its last position ends (R204). -/
theorem txbStep_of_ge {r : TxbRun} {s : State} (h : s.cfg.reps * r.code.length ≤ r.pos) :
    txbStep r s = finishTxb s := by
  unfold txbStep; rw [if_neg (Nat.not_lt.2 h)]

/-- R22: a re-sized buffer has `INDEX` in range, and leaves it alone where it was. -/
theorem indexWithin_lt {draw cap i : Nat} (h : 0 < cap) : indexWithin draw cap i < cap := by
  unfold indexWithin; split
  · assumption
  · exact Nat.mod_lt _ h

theorem indexWithin_of_lt {draw cap i : Nat} (h : i < cap) : indexWithin draw cap i = i := if_pos h

@[simp] theorem deadStamps_length (cfg : Config) (draw : Nat) : (deadStamps cfg draw).length = cfg.nedges := by
  simp [deadStamps]

@[simp] theorem deadGaps_length (cfg : Config) (draw : Nat) : (deadGaps cfg draw).length = cfg.nedges - 2 := by
  simp [deadGaps]

/-- R26: whatever a dead gap is, it is non-negative and fits i32. -/
theorem deadGaps_range {cfg : Config} {draw : Nat} {g : Int} (h : g ∈ deadGaps cfg draw) :
    0 ≤ g ∧ g < 2 ^ 31 := by
  obtain ⟨i, _, rfl⟩ := List.mem_map.1 h
  have := (Config.freeGap draw i).isLt
  omega

/-! The agents' steps. -/

theorem recordEdge_next {s t : State} (h : recordEdge s = .next t) :
    s.edgeX < s.et.length ∧
    t = { s with
      et := s.et.set s.edgeX s.clock
      edgeX := s.edgeX + 1
      lastLevel := s.rxLevel
      crit := if s.edgeX + 1 = s.cfg.nedges then false else s.crit
      capPhase := if s.edgeX + 1 = s.cfg.nedges then .reducing else s.capPhase } := by
  unfold recordEdge at h
  split at h
  · exact ⟨‹_›, by simpa using h.symm⟩
  · cases h

theorem samplerStep_next {s t : State} (h : samplerStep s = .next t) :
    (s.rxLevel = s.lastLevel ∧ t = s) ∨ (s.rxLevel ≠ s.lastLevel ∧ recordEdge s = .next t) := by
  unfold samplerStep at h
  split at h
  · exact .inl ⟨‹_›, by simpa using h.symm⟩
  · exact .inr ⟨‹_›, h⟩

theorem finishCapture_next {s t : State} (h : finishCapture s = .next t) :
    s.cfg.nedges ≤ s.et.length ∧ (∀ g ∈ deliveredGaps s.cfg.period s.cfg.nedges s.et, 0 ≤ g) ∧
    t = (reduceGaps s (deliveredGaps s.cfg.period s.cfg.nedges s.et)).discardTransients := by
  unfold finishCapture at h
  split at h
  · split at h
    · exact ⟨‹_›, by simp_all, by simpa using h.symm⟩
    · cases h
  · cases h

theorem timerTurn_next {s t : State} (h : timerTurn s = .next t) :
    ((s.timerArmed = false ∨ s.crit = true) ∧ t = s) ∨
    (s.timerArmed = true ∧ s.crit = false ∧ ∃ d, s.pb[s.index]? = some d ∧ t = fireOn d s.enterCallback) := by
  unfold timerTurn at h
  split at h
  · rename_i hc
    simp only [Bool.and_eq_true, Bool.not_eq_true'] at hc
    refine .inr ⟨hc.1, hc.2, ?_⟩
    unfold timerFire at h
    split at h
    · exact ⟨_, ‹_›, by simpa using h.symm⟩
    · cases h
  · rename_i hc
    refine .inl ⟨?_, by simpa using h.symm⟩
    cases ha : s.timerArmed <;> cases hcr : s.crit <;> simp_all

theorem genTurn_next {s t : State} (h : genTurn s = .next t) :
    (s.genRunning = false ∧ t = s) ∨
    (s.genRunning = true ∧ ∃ d, s.genWave[s.genPos]? = some d ∧ t = generateOn d s) := by
  unfold genTurn at h
  split at h
  · refine .inr ⟨‹_›, ?_⟩
    split at h
    · exact ⟨_, ‹_›, by simpa using h.symm⟩
    · cases h
  · exact .inl ⟨by simp_all, by simpa using h.symm⟩

end Sys2Proof.Machine
end

