-- ==== Sys2Proof/Laws/PerInstr.lean ====
section
/-! SUPPORT. One lemma per command about its encoding: the two fields of the word (30_encoding.md R100,
R101). -/

namespace Sys2Proof.Laws.EncodeOp

/-- The word of a well-formed command carries its operation code and its operand. -/
def Statement (i : Instr) : Prop :=
  i.wf = true → opField (encode i) = opcode i ∧ argField (encode i) = argument i

/-- The fields of a word put together from an operation code and an argument that fit. -/
theorem fields {op arg : Nat} (ho : op < 2 ^ 8) (ha : arg < 2 ^ 24) :
    opField (BitVec.ofNat 32 (op * 2 ^ 24 + arg)) = op ∧
      argField (BitVec.ofNat 32 (op * 2 ^ 24 + arg)) = arg := by
  have h : (BitVec.ofNat 32 (op * 2 ^ 24 + arg)).toNat = op * 2 ^ 24 + arg := by
    rw [BitVec.toNat_ofNat]; omega
  unfold opField argField
  rw [h]
  omega

/-- Every operation code fits its eight bits. -/
theorem opcode_lt (i : Instr) : opcode i < 2 ^ 8 := by cases i <;> simp [opcode]

theorem capture (k : Key) : Statement (.capture k) := fun h => fields (opcode_lt _) (of_decide_eq_true h)

theorem txnb (k : Key) : Statement (.txnb k) := fun h => fields (opcode_lt _) (of_decide_eq_true h)

theorem txb (k : Key) : Statement (.txb k) := fun h => fields (opcode_lt _) (of_decide_eq_true h)

theorem latency : Statement .latency := fun _ => fields (opcode_lt _) (by decide)

theorem config (a : Bool) : Statement (.config a) := fun _ =>
  fields (opcode_lt _) (lt_of_le_of_lt (Bool.toNat_le a) (by decide))

theorem delete (k : Key) : Statement (.delete k) := fun h => fields (opcode_lt _) (of_decide_eq_true h)

theorem keys : Statement .keys := fun _ => fields (opcode_lt _) (by decide)

theorem inspect (k : Key) : Statement (.inspect k) := fun h => fields (opcode_lt _) (of_decide_eq_true h)

theorem load : Statement .load := fun _ => fields (opcode_lt _) (by decide)

theorem save : Statement .save := fun _ => fields (opcode_lt _) (by decide)

end Sys2Proof.Laws.EncodeOp
end

