-- ==== Sys2Proof/Laws/Store.lean ====
section
/-! SUPPORT. The CodeStore as a finite map: lookup after each operation, and the canonical form. -/

namespace Sys2Proof.Machine

@[simp] theorem storeLookup_nil (k : Nat) : storeLookup k [] = none := rfl

@[simp] theorem storeLookup_cons (k : Nat) (e : Nat × Code) (r : Store) :
    storeLookup k (e :: r) = if k = e.1 then some e.2 else storeLookup k r := rfl

theorem storeLookup_insert (k k' : Nat) (c : Code) (m : Store) :
    storeLookup k (storeInsert k' c m) = if k = k' then some c else storeLookup k m := by
  induction m with
  | nil => simp [storeInsert]
  | cons e r ih =>
    simp only [storeInsert]
    split
    · simp
    · split
      · simp only [storeLookup_cons]
        grind
      · simp only [storeLookup_cons, ih]
        grind

theorem storeLookup_erase (k k' : Nat) (m : Store) :
    storeLookup k (storeErase k' m) = if k = k' then none else storeLookup k m := by
  induction m with
  | nil => simp [storeErase]
  | cons e r ih =>
    simp only [storeErase]
    split <;> simp only [storeLookup_cons, ih] <;> grind

theorem storeLookup_mem {k : Nat} {c : Code} {m : Store} (h : storeLookup k m = some c) :
    (k, c) ∈ m := by
  induction m with
  | nil => simp at h
  | cons e r ih =>
    simp only [storeLookup_cons] at h
    split at h
    · cases h; simp_all
    · exact List.mem_cons_of_mem _ (ih h)

theorem mem_storeKeys {k : Nat} {m : Store} : k ∈ storeKeys m ↔ storeLookup k m ≠ none := by
  induction m with
  | nil => simp [storeKeys]
  | cons e r ih =>
    simp only [storeKeys, List.map_cons, List.mem_cons, storeLookup_cons] at *
    split <;> simp_all

theorem storeLookup_eq_none {k : Nat} {m : Store} : storeLookup k m = none ↔ k ∉ storeKeys m := by
  rw [mem_storeKeys]; simp

theorem mem_storeKeys_insert {k k' : Nat} {c : Code} {m : Store} :
    k ∈ storeKeys (storeInsert k' c m) ↔ k = k' ∨ k ∈ storeKeys m := by
  simp only [mem_storeKeys, storeLookup_insert]
  split <;> simp_all

/-- The canonical form, read off one entry at a time. -/
theorem storeWf_cons {e : Nat × Code} {r : Store} :
    storeWf (e :: r) ↔ (∀ k ∈ storeKeys r, e.1 < k) ∧ storeWf r := by
  simp [storeWf, storeKeys]

theorem storeWf_nil : storeWf [] := List.Pairwise.nil

theorem storeInsert_wf {k : Nat} {c : Code} {m : Store} (h : storeWf m) : storeWf (storeInsert k c m) := by
  induction m with
  | nil => simp [storeInsert, storeWf]
  | cons e r ih =>
    obtain ⟨hlt, hr⟩ := storeWf_cons.1 h
    simp only [storeInsert]
    split
    case isTrue hk =>
      refine storeWf_cons.2 ⟨fun k' hk' => ?_, h⟩
      simp only [storeKeys, List.map_cons, List.mem_cons] at hk'
      rcases hk' with rfl | hk'
      · exact hk
      · exact lt_trans hk (hlt k' hk')
    case isFalse hk =>
      split
      case isTrue he => subst he; exact storeWf_cons.2 ⟨hlt, hr⟩
      case isFalse he =>
        refine storeWf_cons.2 ⟨fun k' hk' => ?_, ih hr⟩
        rcases mem_storeKeys_insert.1 hk' with rfl | hk'
        · omega
        · exact hlt k' hk'

theorem mem_storeKeys_erase {k k' : Nat} {m : Store} :
    k ∈ storeKeys (storeErase k' m) ↔ k ≠ k' ∧ k ∈ storeKeys m := by
  simp only [mem_storeKeys, storeLookup_erase]
  split <;> simp_all

theorem storeErase_wf {k : Nat} {m : Store} (h : storeWf m) : storeWf (storeErase k m) := by
  induction m with
  | nil => simpa [storeErase] using h
  | cons e r ih =>
    obtain ⟨hlt, hr⟩ := storeWf_cons.1 h
    simp only [storeErase]
    split
    · exact ih hr
    · exact storeWf_cons.2 ⟨fun k' hk' => hlt k' (mem_storeKeys_erase.1 hk').2, ih hr⟩

theorem storeMerge_wf {m : Store} (r : Store) (h : storeWf m) : storeWf (storeMerge m r) := by
  induction r generalizing m with
  | nil => exact h
  | cons e r ih => exact ih (storeInsert_wf h)

/-- Every entry of a canonical `r` wins over `m` (R226). -/
theorem storeLookup_merge (k : Nat) {m r : Store} (h : storeWf r) :
    storeLookup k (storeMerge m r) = (storeLookup k r).or (storeLookup k m) := by
  induction r generalizing m with
  | nil => simp [storeMerge]
  | cons e r ih =>
    obtain ⟨hlt, hr⟩ := storeWf_cons.1 h
    have hne : k = e.1 → storeLookup k r = none := fun hk =>
      storeLookup_eq_none.2 fun hm => by have := hlt k hm; omega
    simp only [storeMerge, ih hr, storeLookup_insert, storeLookup_cons]
    split
    · simp [hne ‹_›]
    · rfl

/-- A key above all of `m`'s is appended. -/
theorem storeInsert_above {k : Nat} {c : Code} {m : Store} (h : ∀ k' ∈ storeKeys m, k' < k) :
    storeInsert k c m = m ++ [(k, c)] := by
  induction m with
  | nil => rfl
  | cons e r ih =>
    simp only [storeKeys, List.map_cons, List.mem_cons, forall_eq_or_imp] at h
    have h1 : ¬ k < e.1 := by omega
    have h2 : k ≠ e.1 := by omega
    simp only [storeInsert, h1, h2, if_false]
    rw [ih h.2]; rfl

/-- Merging a canonical `r` whose keys lie above `m`'s is appending it. -/
theorem storeMerge_above {m r : Store} (hr : storeWf r) (h : ∀ a ∈ storeKeys m, ∀ b ∈ storeKeys r, a < b) :
    storeMerge m r = m ++ r := by
  induction r generalizing m with
  | nil => simp [storeMerge]
  | cons e r ih =>
    obtain ⟨hlt, hr'⟩ := storeWf_cons.1 hr
    have he : ∀ a ∈ storeKeys m, a < e.1 := fun a ha => h a ha e.1 (by simp [storeKeys])
    rw [storeMerge, storeInsert_above he, ih hr']
    · simp
    · intro a ha b hb
      simp only [storeKeys, List.map_append, List.mem_append, List.map_cons, List.map_nil,
        List.mem_singleton] at ha
      rcases ha with ha | rfl
      · exact h a ha b (by simp only [storeKeys, List.map_cons, List.mem_cons]; exact Or.inr hb)
      · exact hlt b hb

theorem storeKeys_nodup {m : Store} (h : storeWf m) : (storeKeys m).Nodup :=
  h.imp (fun hlt => Nat.ne_of_lt hlt)

theorem le_maxOf {l : List Nat} {x : Nat} (h : x ∈ l) : x ≤ maxOf l := by
  induction l with
  | nil => simp at h
  | cons y r ih =>
    simp only [List.mem_cons] at h
    have hmax : maxOf (y :: r) = max y (maxOf r) := rfl
    rcases h with rfl | h
    · omega
    · have := ih h; omega

theorem maxOf_mem {l : List Nat} (h : l ≠ []) : maxOf l ∈ l := by
  induction l with
  | nil => exact absurd rfl h
  | cons y r ih =>
    have hmax : maxOf (y :: r) = max y (maxOf r) := rfl
    rcases r with _ | ⟨z, r⟩
    · simp [maxOf]
    · have := ih (by simp)
      rcases Nat.le_total y (maxOf (z :: r)) with hle | hle
      · rw [hmax, Nat.max_eq_right hle]; exact List.mem_cons_of_mem _ this
      · rw [hmax, Nat.max_eq_left hle]; simp

end Sys2Proof.Machine
end

