-- ==== Sys2Proof/Laws/Turns.lean ====
section
/-! SUPPORT. What a step can do, said once: which agent stepped, and how. -/

namespace Sys2Proof.Machine

theorem valid_bounds {c : Config} (h : c.valid = true) :
    3 ≤ c.nedges ∧ c.nedges < 2 ^ 32 ∧ 1 ≤ c.reps ∧ c.reps < 2 ^ 32 ∧
      2 ≤ c.periodLog2 ∧ c.periodLog2 ≤ 32 := of_decide_eq_true h

theorem step_of_valid {s : State} (h : s.cfg.valid = true) : step s = nextTurn s := by
  simp [step, h]

theorem step_of_turn {s : State} {a : Turn} {ts : List Turn} (h : s.cfg.valid = true)
    (ht : s.turns = a :: ts) : step s = takeTurn a { s with turns := ts } := by
  rw [step_of_valid h, nextTurn, ht]

/-- The turn of a host that is in no command and has an access to make. -/
theorem step_of_access {s : State} {ts : List Turn} {a : HostAccess} {bs : List HostAccess}
    (h : s.cfg.valid = true) (hf : s.hostFree = true) (ht : s.turns = .host :: ts)
    (hb : s.bus = a :: bs) : step s = hostAccess a { s with turns := ts, bus := bs } := by
  rw [step_of_turn h ht]
  obtain ⟨hp, hx⟩ := hostFree_iff.1 hf
  simp only [takeTurn, hostTurn]
  split <;> simp_all [nextAccess]

/-- A step under a bad configuration answers no next state; otherwise the next turn is taken, if any. -/
theorem step_next {s t : State} (h : step s = .next t) :
    s.cfg.valid = true ∧
    ((s.turns = [] ∧ t = s) ∨
      ∃ a ts, s.turns = a :: ts ∧ takeTurn a { s with turns := ts } = .next t) := by
  unfold step at h
  split at h
  · refine ⟨‹_›, ?_⟩
    unfold nextTurn at h
    split at h
    · exact .inl ⟨‹_›, by simpa using h.symm⟩
    · exact .inr ⟨_, _, ‹_›, h⟩
  · cases h

/-- What a host access can do: read a register, or issue the word written to `CMD`. -/
theorem hostAccess_next {a : HostAccess} {s t : State} (h : hostAccess a s = .next t) :
    (∃ v, t = { s with rdata := v }) ∨ (∃ w, a = .write s.cfg.mrcBase 4 w ∧ issueCommand w s = .next t) := by
  cases a with
  | write addr bytes w =>
    simp only [hostAccess] at h
    split at h
    · rename_i r hr
      cases r <;> simp only [writeRegister, reduceCtorEq] at h
      refine .inr ⟨w, ?_, h⟩
      unfold accessedReg at hr
      split at hr
      · split at hr
        · have : addr - s.cfg.mrcBase = 0 := by
            unfold regAt at hr
            split at hr <;> simp_all
          have : addr = s.cfg.mrcBase := by omega
          simp_all
        · cases hr
      · cases hr
    · cases h
  | read addr bytes =>
    simp only [hostAccess] at h
    split at h
    · unfold readRegister at h
      split at h
      · split at h
        · exact .inl ⟨_, by simpa using h.symm⟩
        · cases h
      · cases h
    · cases h

/-- What a word written to `CMD` can do. -/
theorem issueCommand_next {w : Word} {s t : State} (h : issueCommand w s = .next t) :
    (∃ i, decode w = .ok i ∧ exec i s = .next t) ∨
    (∃ e, decode w = .error e ∧ t = s.raise .illegalCommand) := by
  unfold issueCommand at h
  split at h
  · exact .inl ⟨_, ‹_›, h⟩
  · exact .inr ⟨_, ‹_›, by simpa using h.symm⟩

/-- What the host's turn can do. -/
theorem hostTurn_next {s t : State} (h : hostTurn s = .next t) :
    (s.capPhase = .sampling ∧ t = s) ∨
    (s.capPhase = .reducing ∧ finishCapture s = .next t) ∨
    (s.capPhase = .idle ∧ ∃ r, s.txb = some r ∧ t = txbStep r s) ∨
    (s.hostFree = true ∧ s.bus = [] ∧ t = s) ∨
    (s.hostFree = true ∧ ∃ a rest, s.bus = a :: rest ∧ hostAccess a { s with bus := rest } = .next t) := by
  unfold hostTurn at h
  split at h
  · exact .inl ⟨‹_›, by simpa using h.symm⟩
  · exact .inr (.inl ⟨‹_›, h⟩)
  · rename_i hp
    split at h
    · exact .inr (.inr (.inl ⟨hp, _, ‹_›, by simpa using h.symm⟩))
    · rename_i hx
      have hf : s.hostFree = true := hostFree_iff.2 ⟨hp, hx⟩
      unfold nextAccess at h
      split at h
      · exact .inr (.inr (.inr (.inl ⟨hf, ‹_›, by simpa using h.symm⟩)))
      · exact .inr (.inr (.inr (.inr ⟨hf, _, _, ‹_›, h⟩)))

theorem samplerTurn_next {s t : State} (h : samplerTurn s = .next t) :
    (s.capPhase = .sampling ∧ samplerStep s = .next t) ∨ (s.capPhase ≠ .sampling ∧ t = s) := by
  unfold samplerTurn at h
  split at h <;> simp_all

end Sys2Proof.Machine
end

