-- ==== Sys2Proof/Laws/Reduce.lean ====
section
/-! SUPPORT. The parts of the reduction, each said once: the clock period, gaps, timestamps, segmentation,
the checks. -/

namespace Sys2Proof.Machine

theorem period_pos {c : Config} : 0 < c.period := Nat.pow_pos (by omega)

theorem period_le {c : Config} (h : c.valid = true) : c.period ≤ 2 ^ 32 :=
  Nat.pow_le_pow_right (by omega) (valid_bounds h).2.2.2.2.2

/-- R24: whatever a dead timestamp is, it lies below the modulus. -/
theorem deadStamps_lt {c : Config} {draw : Nat} {w : Word} (h : w ∈ deadStamps c draw) :
    w.toNat < c.period := by
  obtain ⟨i, _, rfl⟩ := List.mem_map.1 h
  rw [BitVec.toNat_ofNat]
  exact (Nat.mod_le _ _).trans_lt (Nat.mod_lt _ period_pos)

theorem diff_lt {c : Config} (h : c.valid = true) (a b : Word) : diff c.period a b < 2 ^ 31 := by
  have hle := period_le h
  have hpos := @period_pos c
  have hlt := Int.emod_lt_of_pos ((a.toNat : Int) - (b.toNat : Int) + (c.period / 2 : Nat))
    (show (0 : Int) < (c.period : Int) by omega)
  unfold diff
  omega

theorem rawGaps_cons_cons (period : Nat) (a b : Word) (r : List Word) :
    rawGaps period (a :: b :: r) = diff period b a :: rawGaps period (b :: r) := rfl

/-- `n` timestamps have `n − 1` differences (R141). -/
theorem rawGaps_length (period : Nat) : ∀ l : List Word, (rawGaps period l).length = l.length - 1
  | [] => rfl
  | [_] => rfl
  | a :: b :: r => by
    rw [rawGaps_cons_cons, List.length_cons, rawGaps_length period (b :: r)]
    simp

/-- `NEDGES − 2` gaps are delivered (R141). -/
theorem deliveredGaps_length {period nedges : Nat} {et : List Word} (h : et.length = nedges) :
    (deliveredGaps period nedges et).length = nedges - 2 := by
  simp only [deliveredGaps, rawGaps_length, List.length_take]
  omega

/-- Every gap is a difference of two timestamps. -/
theorem mem_rawGaps (period : Nat) : ∀ l : List Word, ∀ g ∈ rawGaps period l, ∃ a b, g = diff period a b
  | [], _, h => by simp [rawGaps] at h
  | [_], _, h => by simp [rawGaps] at h
  | a :: b :: r, g, h => by
    rw [rawGaps_cons_cons] at h
    rcases List.mem_cons.1 h with rfl | h
    · exact ⟨_, _, rfl⟩
    · exact mem_rawGaps period (b :: r) g h

theorem stampsFrom_length (period t : Nat) (us : List Nat) : (stampsFrom period t us).length = us.length := by
  induction us generalizing t with
  | nil => rfl
  | cons u r ih => simp [stampsFrom, ih]

theorem stampsFrom_take (period t n : Nat) (us : List Nat) :
    (stampsFrom period t us).take n = stampsFrom period t (us.take n) := by
  induction us generalizing t n with
  | nil => simp [stampsFrom]
  | cons u r ih =>
    cases n with
    | zero => rfl
    | succ n => simp [stampsFrom, ih]

/-- Only the start modulo the period matters. -/
theorem stampsFrom_mod {period x y : Nat} (h : x % period = y % period) (us : List Nat) :
    stampsFrom period x us = stampsFrom period y us := by
  induction us generalizing x y with
  | nil => rfl
  | cons u r ih =>
    have hu : (x + u) % period = (y + u) % period := by rw [Nat.add_mod, h, ← Nat.add_mod]
    simp only [stampsFrom, hu, ih hu]

/-- R143: what stands before the gaps that segmentation sees. -/
theorem afterFirstBoundary_split (thr : Nat) : ∀ gaps : List Nat, (∃ g ∈ gaps, thr ≤ g) →
    ∃ lead b, gaps = lead ++ b :: afterFirstBoundary thr gaps ∧ (∀ g ∈ lead, g < thr) ∧ thr ≤ b
  | [], h => by simp at h
  | g :: r, h => by
    unfold afterFirstBoundary
    split
    · exact ⟨[], g, rfl, by simp, ‹_›⟩
    · have hr : ∃ g ∈ r, thr ≤ g := by
        obtain ⟨x, hx, hle⟩ := h
        rcases List.mem_cons.1 hx with rfl | hx
        · contradiction
        · exact ⟨x, hx, hle⟩
      obtain ⟨lead, b, he, hlt, hb⟩ := afterFirstBoundary_split thr r hr
      refine ⟨g :: lead, b, by rw [List.cons_append, ← he], ?_, hb⟩
      intro x hx
      rcases List.mem_cons.1 hx with rfl | hx
      · omega
      · exact hlt x hx

/-- R146: fewer than five frames. -/
theorem judgeFrames_of_few {q : List Rat} {frames : List Code} (h : frames.length < 5) :
    judgeFrames q frames = (failedResult frames.length 0 0 q, none) := by
  unfold judgeFrames minFrames
  rw [if_pos h]

/-- R148: five frames, but fewer than five of the modal length. -/
theorem judgeFrames_of_few_kept {q : List Rat} {frames : List Code} (h : 5 ≤ frames.length)
    (hk : (keptFrames frames).length < 5) :
    judgeFrames q frames = (failedResult frames.length (keptFrames frames).length
      (frames.length - (keptFrames frames).length) q, none) := by
  unfold judgeFrames minFrames
  rw [if_neg (by omega), if_pos hk]

/-- R149, R150: five frames of the modal length. -/
theorem judgeFrames_of_enough {q : List Rat} {frames : List Code} (hk : 5 ≤ (keptFrames frames).length) :
    judgeFrames q frames =
      ({ ok := true
         error := .none
         framesTotal := frames.length
         framesKept := (keptFrames frames).length
         discarded := frames.length - (keptFrames frames).length
         variances := variances (keptFrames frames) (modalLength frames) },
       some (averagedCode (keptFrames frames) (modalLength frames))) := by
  have hle : (keptFrames frames).length ≤ frames.length := List.length_filter_le _ _
  unfold judgeFrames minFrames
  rw [if_neg (by omega), if_neg (by omega)]

/-- The host's turn that completes a capture whose delivered gaps are `gaps`. -/
theorem step_finish {s : State} {ts : List Turn} {gaps : List Nat} (h : s.cfg.valid = true)
    (ht : s.turns = .host :: ts) (hp : s.capPhase = .reducing) (hl : s.et.length = s.cfg.nedges)
    (hg : deliveredGaps s.cfg.period s.cfg.nedges s.et = gaps.map Int.ofNat) :
    step s = .next (State.discardTransients (reportCapture
      { s with
        turns := ts
        gs := gaps.map Int.ofNat
        thr := gapThreshold gaps
        frames := framesOf gaps }
      (judgeFrames (Config.freeVariances s.draws) (framesOf gaps)).1
      (judgeFrames (Config.freeVariances s.draws) (framesOf gaps)).2)) := by
  have hn : (gaps.map Int.ofNat).map Int.toNat = gaps := by
    rw [List.map_map]; simp [Function.comp_def]
  rw [step_of_turn h ht]
  simp only [takeTurn, hostTurn, hp, finishCapture]
  rw [if_pos (by omega), if_pos (by rw [hg]; simp)]
  unfold reduceGaps
  simp only [hg, hn]

end Sys2Proof.Machine
end

