-- ==== Sys2Proof/Laws/Runs.lean ====
section
/-! SUPPORT. Runs of several steps, and the algebra of waveforms. -/

namespace Sys2Proof.Machine

theorem run_zero (s : State) : run 0 s = .next s := rfl

/-- One step, then the rest. -/
theorem run_succ {n : Nat} {s t : State} (h : step s = .next t) : run (n + 1) s = run n t := by
  simp [run, h, andThen]

/-- A run in two parts. -/
theorem run_add {m n : Nat} {s t : State} (h : run m s = .next t) : run (m + n) s = run n t := by
  induction m generalizing s with
  | zero =>
    have : s = t := by simpa [run_zero] using h
    rw [this, Nat.zero_add]
  | succ m ih =>
    obtain ⟨u, hu, ht⟩ := andThen_next h
    rw [Nat.add_right_comm, run_succ hu]
    exact ih ht

/-- `run` is the host's run. -/
theorem run_eq_core (n : Nat) (s : State) : Host.Core.run core n s = run n s := by
  induction n generalizing s with
  | zero => rfl
  | succ n ih =>
    have hs : core.step s = step s := rfl
    simp only [Host.Core.run, run, hs]
    cases step s with
    | next u => exact ih u
    | fault f => rfl
    | refused r => rfl

theorem pulsesFrom_append (al : Bool) (i : Nat) (a b : List Nat) :
    pulsesFrom al i (a ++ b) = pulsesFrom al i a ++ pulsesFrom al (i + a.length) b := by
  induction a generalizing i with
  | nil => rfl
  | cons d r ih => simp [pulsesFrom, ih, Nat.add_comm, Nat.add_left_comm]

/-- Levels repeat every two positions, so shifting a waveform by an even number of positions keeps it. -/
theorem pulsesFrom_add_two (al : Bool) (i n : Nat) (b : List Nat) :
    pulsesFrom al (i + 2 * n) b = pulsesFrom al i b := by
  induction b generalizing i with
  | nil => rfl
  | cons d r ih =>
    have hl : levelOf al (i + 2 * n) = levelOf al i := by simp [levelOf]
    rw [pulsesFrom, pulsesFrom, hl, Nat.add_right_comm, ih]

/-- Position `j` of a repeated code is position `j mod len(c)` of the code (R172, R204). -/
theorem repeatCode_getElem? {code : Code} {n j : Nat} (h : j < n * code.length) :
    (repeatCode n code)[j]? = code[j % code.length]? := by
  induction n generalizing j with
  | zero => omega
  | succ n ih =>
    have hr : repeatCode (n + 1) code = code ++ repeatCode n code := by simp [repeatCode, List.replicate_succ]
    rw [hr]
    rcases Nat.lt_or_ge j code.length with hj | hj
    · rw [List.getElem?_append_left hj, Nat.mod_eq_of_lt hj]
    · rw [List.getElem?_append_right hj, ih (by rw [Nat.succ_mul] at h; omega), ← Nat.mod_eq_sub_mod hj]

/-- A code of even length gives the same pulses in every repeat (R206). -/
theorem pulses_repeat_even {al : Bool} {c : Code} (h : c.length % 2 = 0) (n : Nat) :
    pulses al (repeatCode n c) = (List.replicate n (pulses al c)).flatten := by
  induction n with
  | zero => rfl
  | succ n ih =>
    have hr : repeatCode (n + 1) c = c ++ repeatCode n c := by simp [repeatCode, List.replicate_succ]
    have hl : c.length = 2 * (c.length / 2) := by omega
    rw [hr, pulses, pulsesFrom_append, hl, pulsesFrom_add_two, List.replicate_succ, List.flatten_cons]
    exact congrArg _ ih

end Sys2Proof.Machine
end

