-- ==== Sys2Proof/Tests/Slice0.lean ====
section
/-! SUPPORT. Small tests. Expected values come from 95_test_vectors.md (V<n>, P<n>) or are computed by hand
from the rule named; the last part gives, for each statement with hypotheses, values that meet them. -/

namespace Sys2Proof.Tests
open Sys2Proof Sys2Proof.Machine

/-! Helpers. -/

/-- A field of the next state an outcome answers. -/
def after {α : Type} (o : Result) (f : State → α) : Option α :=
  match o with
  | .next s => some (f s)
  | .fault _ => none
  | .refused _ => none

/-- Eight edges, two repeats, callback strategy. -/
def cfgC : Config := { Config.default with nedges := 8, reps := 2 }

/-- The same with a generator. -/
def cfgG (native : Bool) : Config := { cfgC with strategy := .generator, genNativeLoop := native }

/-- After reset, with a store of three codes and room for them. -/
def base (cfg : Config) : State :=
  { State.resetWith cfg with
    store := [(1, [100, 200, 300]), (2, [400, 1200]), (3, [4294967296])]
    pb := [7, 7, 7, 7, 7, 7, 7]
    pbCap := 7 }

/-- The same, with the chain about to play `[100, 200, 0]` from position `i`. -/
def chain (i : Nat) : State :=
  { base cfgC with
    pb := [100, 200, 0, 7, 7, 7, 7], index := i, pstate := .running, timerArmed := true, turns := [.timer] }

/-- The same with a generator and `loops` loops left. -/
def genAt (i loops : Nat) : State :=
  { base (cfgG true) with
    genWave := [100, 200, 0], genPos := i, genLoops := loops, genRunning := true, turns := [.gen] }

/-- A capture under key 9 with the timestamps `et`, ready for its reduction. -/
def reducing (n : Nat) (et : List Word) : State :=
  { State.resetWith { cfgC with nedges := n } with
    et := et, edgeX := n, capPhase := .reducing, capKey := 9, store := [(1, [5])], turns := [.host] }

/-- A host that is about to make the access `a`. -/
def access (a : HostAccess) : State := { base cfgC with turns := [.host], bus := [a] }

/-! Well-formedness: an ill-formed term for each check. -/

theorem test_wf_capture : (Instr.capture 16777216).wf = false := by decide
theorem test_wf_txnb : (Instr.txnb 16777216).wf = false := by decide
theorem test_wf_txb : (Instr.txb 16777216).wf = false := by decide
theorem test_wf_delete : (Instr.delete 16777216).wf = false := by decide
theorem test_wf_inspect : (Instr.inspect 16777216).wf = false := by decide
theorem test_wf_largest_handle : (Instr.inspect 16777215).wf = true := by decide

/-! Decoding: one word per constructor, written out bit by bit from the patterns of R101. -/

theorem test_decode_capture :
    decode 0b00000001100000000000000000000101 = .ok (.capture 8388613) := by decide
theorem test_decode_txnb : decode 0b00000010000000000000000000000011 = .ok (.txnb 3) := by decide
theorem test_decode_txb : decode 0b00000011000000000000000100000000 = .ok (.txb 256) := by decide
theorem test_decode_latency : decode 0b00000100000000000000000000000000 = .ok .latency := by decide
theorem test_decode_config : decode 0b00000101000000000000000000000001 = .ok (.config true) := by decide
theorem test_decode_config_0 : decode 0b00000101000000000000000000000000 = .ok (.config false) := by decide
theorem test_decode_delete : decode 0b00000110000000000000000000000100 = .ok (.delete 4) := by decide
theorem test_decode_keys : decode 0b00000111000000000000000000000000 = .ok .keys := by decide
theorem test_decode_inspect :
    decode 0b00001000111111111111111111111111 = .ok (.inspect 16777215) := by decide
theorem test_decode_load : decode 0b00001001000000000000000000000000 = .ok .load := by decide
theorem test_decode_save : decode 0b00001010000000000000000000000000 = .ok .save := by decide
/-- R107: one bit over, for each kind of literal bit; V32. -/
theorem test_decode_illegal :
    decode 0x00FFFFFF = .error .noSuchOpcode ∧ decode 0x0B000000 = .error .noSuchOpcode ∧
    decode 0xFF000000 = .error .noSuchOpcode ∧ decode 0x04000001 = .error .argNotZero ∧
    decode 0x07800000 = .error .argNotZero ∧ decode 0x09000001 = .error .argNotZero ∧
    decode 0x0A000001 = .error .argNotZero ∧ decode 0x05000002 = .error .configReservedBits ∧
    decode 0x05800001 = .error .configReservedBits := by decide
/-- The host's numbering: bit 0 of the table's word is bit 0 of the command word. -/
theorem test_decode_table : decodeTableWord 32 0x01000007 = some (.capture 7) := by decide

/-! Operands. -/

/-- V7, both periods. -/
theorem test_diff : diff (2 ^ 32) 8300 7800 = 500 ∧ diff (2 ^ 32) 7800 4294966096 = 9000 ∧
    diff (2 ^ 32) 0 4294967295 = 1 ∧ diff (2 ^ 32) 4294967295 0 = -1 ∧
    diff (2 ^ 32) 2147483648 0 = -2147483648 ∧ diff (2 ^ 16) 200 65436 = 300 ∧
    diff (2 ^ 16) 32768 0 = -32768 := by decide
/-- V8. -/
theorem test_threshold : [0, 1, 2, 3, 4, 5, 7, 9000, 9100, 2147483647].map threshold =
    [0, 1, 2, 2, 3, 4, 6, 7200, 7280, 1717986918] := by decide
/-- R149: 10.5 goes to 10, 11.5 to 12. -/
theorem test_round : roundHalfEven 63 6 = 10 ∧ roundHalfEven 69 6 = 12 := by decide
/-- V10, steps 1 to 4. -/
theorem test_frames : framesOf [300, 9000, 500, 9100, 510, 8900, 490, 9000, 500, 9050, 505, 8950] =
    [[500, 9100], [510, 8900], [490, 9000], [500, 9050], [505, 8950]] := by decide
/-- V18: the partial frames at both ends are dropped. -/
theorem test_partial_frames :
    framesOf [300, 9000, 500, 9100, 510, 8900, 77] = [[500, 9100], [510, 8900]] := by decide
/-- R147's example: the tie goes to the length met first. -/
theorem test_modal_tie : modalLength ([4, 6, 6, 4, 4, 6, 5].map fun n => List.replicate n 1) = 4 := by decide
/-- V10, steps 7 and 8. -/
theorem test_average :
    averagedCode [[500, 9100], [510, 8900], [490, 9000], [500, 9050], [505, 8950]] 2 = [501, 9000] := by
  decide
theorem test_variances :
    variances [[500, 9100], [510, 8900], [490, 9000], [500, 9050], [505, 8950]] 2 = [44, 5000] := by
  decide +kernel
/-- V24 (b), (c), (d). -/
theorem test_latency_figure : computeLatency 3 [] = 0 ∧
    computeLatency 3 [(1, [100, 200, 300]), (2, [400, 1200])] = 8 ∧
    computeLatency 3 [(7, [501, 9000])] = 47505 / 1000 := by decide +kernel

/-! One step of each command. -/

theorem test_capture_starts :
    after (exec (.capture 9) { base cfgC with rxLevel := true, edgeX := 5 })
      (fun t => (t.capKey, t.edgeX, t.lastLevel, t.crit, t.capPhase)) =
    some (9, 0, true, true, .sampling) := by decide
/-- R122's example. -/
theorem test_sampler_records :
    after (step { base cfgC with
        edgeX := 3, capPhase := .sampling, rxLevel := true, clock := 8300, turns := [.sampler] })
      (fun t => (t.et[3]?, t.edgeX, t.lastLevel, t.capPhase)) =
    some (some 8300, 4, true, .sampling) := by decide
/-- V17: the smallest capture that succeeds. -/
theorem test_capture_success :
    after (step (reducing 8 [1000, 1100, 1200, 1300, 1400, 1500, 1600, 1700]))
      (fun t => (t.store, t.err, t.capResult.framesTotal, t.capResult.variances, t.capPhase)) =
    some ([(1, [5]), (9, [100])], .none, 5, [0], .idle) := by decide +kernel
/-- V11: four frames are one too few. -/
theorem test_capture_failure :
    after (step (reducing 11
        [1000, 10000, 10500, 19500, 20000, 29000, 29500, 38500, 39000, 48000, 48007]))
      (fun t => (t.store, t.err, t.capResult.framesTotal, t.capResult.framesKept, t.capPhase)) =
    some ([(1, [5])], .captureTooFewFrames, 4, 0, .idle) := by decide
/-- V1's shape with two repeats: the content is written, the positions above it stay. -/
theorem test_txnb_builds : after (exec (.txnb 2) (base cfgC))
      (fun t => (t.pb, t.index, t.pstate, t.timerArmed, t.txPin)) =
    some ([400, 1200, 400, 1200, 0, 7, 7], 0, .running, true, false) := by decide
/-- V20 with two repeats. -/
theorem test_txnb_native_loop : after (exec (.txnb 1) (base (cfgG true)))
      (fun t => (t.pb, t.genWave, t.genLoops, t.genRunning, t.pstate)) =
    some ([100, 200, 300, 0, 7, 7, 7], [100, 200, 300, 0], 2, true, .idle) := by decide
theorem test_txb_enters : after (exec (.txb 2) (base cfgC)) (fun t => (t.crit, t.txb, t.pinLog)) =
    some (true, some ⟨[400, 1200], 1⟩, [⟨true, some 400⟩]) := by decide
/-- V26, the second write. -/
theorem test_txb_pulse :
    after (step { base cfgC with crit := true, txb := some ⟨[400, 1200], 1⟩, turns := [.host] })
      (fun t => (t.txPin, t.pinLog, t.txb, t.crit)) =
    some (false, [⟨false, some 1200⟩], some ⟨[400, 1200], 2⟩, true) := by decide
theorem test_latency : after (exec .latency { base cfgC with latencyMs := 56 }) (fun t => t.ret) =
    some (.latency 56) := by decide +kernel
/-- P4, command 1. -/
theorem test_config_active_low : after (exec (.config true) (base cfgC))
      (fun t => (t.activeLow, t.txPin, t.statusWord, t.err)) = some (true, true, 8, .none) := by decide
/-- V25. -/
theorem test_config_refused : after (exec (.config true) (base (cfgG false)))
      (fun t => (t.activeLow, t.txPin, ErrorKind.code t.err)) = some (false, false, 4) := by decide
theorem test_delete : after (exec (.delete 2) (base cfgC)) (fun t => (storeKeys t.store, t.err)) =
    some ([1, 3], .none) := by decide
/-- V31. -/
theorem test_delete_absent : after (exec (.delete 8) (base cfgC))
      (fun t => (storeKeys t.store, ErrorKind.code t.err)) = some ([1, 2, 3], 2) := by decide
theorem test_keys : after (exec .keys (base cfgC)) (fun t => t.ret) = some (.keys [1, 2, 3]) := by
  decide +kernel
theorem test_inspect : after (exec (.inspect 2) (base cfgC)) (fun t => t.ret) =
    some (.code [400, 1200]) := by decide +kernel
/-- V29 with two repeats: the file wins on a shared key. -/
theorem test_load_merges :
    after (exec .load { base cfgC with
        store := [(1, [1, 2]), (3, [9])], file := .mapping [(1, [100, 200, 300]), (2, [400, 1200])] })
      (fun t => (t.store, t.maxlen, t.pbCap, t.pb.length)) =
    some ([(1, [100, 200, 300]), (2, [400, 1200]), (3, [9])], 3, 7, 7) := by decide
theorem test_load_absent : after (exec .load (base cfgC)) (fun t => (ErrorKind.code t.err, t.pbCap)) =
    some (3, 7) := by decide
/-- V30. -/
theorem test_save : after (exec .save { base cfgC with
        store := [(2, [5, 6])], file := .mapping [(1, [1, 2]), (2, [3, 4])] }) (fun t => t.file) =
    some (.mapping [(2, [5, 6])]) := by decide
/-- V21, a fire on a duration and one on the sentinel. -/
theorem test_fire : after (step (chain 1)) (fun t => (t.txPin, t.timerDur, t.index, t.pstate)) =
    some (false, 200, 2, .running) := by decide
theorem test_fire_sentinel :
    after (step (chain 2)) (fun t => (t.txPin, t.timerArmed, t.index, t.pstate)) =
    some (false, false, 2, .idle) := by decide
/-- V27: the loop restarts on position 0. -/
theorem test_gen_loop : after (step (genAt 2 2)) (fun t => (t.genLoops, t.genPos, t.genRunning)) =
    some (1, 0, true) := by decide

/-! Values that meet the hypotheses of each statement, one theorem per statement (and per clause where a
statement has several). -/

theorem test_meets_DecodeOfEncodeIsIdentity : (Instr.capture 16777215).wf = true := by decide
theorem test_meets_DecodedWordIsItsEncoding : decode 0x05000001 = .ok (.config true) := by decide
theorem test_meets_IllegalWordsAreTheReservedOnes :
    (0x00FFFFFF : Word).extractLsb' 24 8 = 0x00 ∧ (0x0B : BitVec 8) ≤ (0x0B000000 : Word).extractLsb' 24 8 ∧
    (0x04000001 : Word).extractLsb' 0 24 ≠ 0 ∧ (0x05000002 : Word).extractLsb' 1 23 ≠ 0 := by decide

/-- Also what `RegisterReadRule` and `BadAccessesAreRefused` ask of the state. -/
theorem test_meets_StepRunsDecodedCommand :
    (access (.write 0 4 0x0A000000)).cfg.valid = true ∧ (access (.write 0 4 0x0A000000)).hostFree = true ∧
    (access (.write 0 4 0x0A000000)).turns = [.host] ∧
    (access (.write 0 4 0x0A000000)).bus =
      [.write (access (.write 0 4 0x0A000000)).cfg.mrcBase 4 0x0A000000] ∧
    decode 0x0A000000 = .ok .save := by decide
theorem test_meets_IllegalWordOnlySetsErr :
    (access (.write 0 4 0x0B000000)).cfg.valid = true ∧ (access (.write 0 4 0x0B000000)).hostFree = true ∧
    (access (.write 0 4 0x0B000000)).bus =
      [.write (access (.write 0 4 0x0B000000)).cfg.mrcBase 4 0x0B000000] ∧
    decode 0x0B000000 = .error .noSuchOpcode := by decide
theorem test_meets_ResetTransition :
    cfgC.valid = true ∧ ({ chain 1 with turns := [.reset] } : State).turns = [.reset] := by decide
theorem test_meets_ResetHasInvariant :
    ({ Config.default with nedges := 3, reps := 1, periodLog2 := 2 } : Config).valid = true ∧
    ({ Config.default with nedges := 2 ^ 32 - 1, reps := 2 ^ 32 - 1 } : Config).valid = true := by decide

/-- A running chain has the invariant, and a step. -/
theorem test_meets_StepKeepsInvariant :
    Inv (chain 1) ∧ after (step (chain 1)) (fun t => t.index) = some 2 := by
  refine ⟨?_, by decide⟩
  exact {
    valid := by decide
    etLength := by decide
    etStamps := by simp [chain, base, State.resetWith, cfgC, Config.default, Config.period]
    edgeLe := by decide
    samplingRoom := by decide
    reducingFull := by decide
    gsLength := by decide
    gsRange := by simp [chain, base, State.resetWith, cfgC]
    resultOk := by decide
    pbLength := by decide
    pbRoom := by decide
    indexRange := by decide
    chain := by decide
    armed := by decide
    generator := by decide
    polarity := by decide
    critical := by decide
    oneCommand := by decide
    quiet := by decide
    txbRange := fun r h => by cases h
    storeCanonical := by decide
    clockRange := by decide }
theorem test_meets_InvariantRulesOutFaults : Inv (chain 1) := test_meets_StepKeepsInvariant.1
theorem test_meets_StepKeepsConfiguration :
    after (step (genAt 0 1)) (fun t => t.genPos) = some 1 := by decide

theorem test_meets_CaptureStartsSampling :
    (base cfgC).hostFree = true ∧ (base cfgC).running = false := by decide
/-- No edge, an edge, the last edge. -/
def sampling (n : Nat) (level : Bool) : State :=
  { base cfgC with edgeX := n, capPhase := .sampling, crit := true, rxLevel := level, turns := [.sampler] }
theorem test_meets_SamplerStepRule :
    ∀ n ∈ [0, 6, 7], ∀ level, (sampling n level).cfg.valid = true ∧
      (sampling n level).turns = [.sampler] ∧ (sampling n level).capPhase = .sampling ∧
      (sampling n level).et.length = (sampling n level).cfg.nedges ∧
      (sampling n level).edgeX < (sampling n level).cfg.nedges := by decide
theorem test_meets_DisabledAgentsHaveNoStep :
    (base cfgC).capPhase ≠ .sampling ∧ (base cfgC).timerArmed = false ∧
    ({ chain 1 with crit := true } : State).crit = true ∧ (base cfgC).genRunning = false ∧
    (sampling 3 true).capPhase = .sampling := by decide

/-- Eight polls, one every 100 microseconds, the level changing each time. -/
def polls8 : List (Nat × Bool) :=
  [(100, true), (100, false), (100, true), (100, false), (100, true), (100, false), (100, true), (100, false)]
theorem test_meets_SamplingFillsTimeline :
    (sampling 0 false).capPhase = .sampling ∧ (sampling 0 false).edgeX = 0 ∧
    (sampling 0 false).et.length = cfgC.nedges ∧ (sampling 0 false).clock.toNat < cfgC.period ∧
    polls8.length = cfgC.nedges ∧ alternates (sampling 0 false).lastLevel (polls8.map Prod.snd) = true := by
  decide
/-- The largest exact difference, the smallest wrong one, a negative one, for the smallest period. -/
theorem test_meets_DiffIsExactBelowHalfPeriod :
    5 - 4 < 2 ^ (2 - 1) ∧ 2 ^ (2 - 1) ≤ 6 - 4 ∧ 2 ^ (2 - 1) ≤ (7 - 4) % 2 ^ 2 ∧
    diff (2 ^ 2) (BitVec.ofNat 32 (5 % 2 ^ 2)) (BitVec.ofNat 32 (4 % 2 ^ 2)) = 1 ∧
    diff (2 ^ 2) (BitVec.ofNat 32 (6 % 2 ^ 2)) (BitVec.ofNat 32 (4 % 2 ^ 2)) = -2 ∧
    diff (2 ^ 2) (BitVec.ofNat 32 (8 % 2 ^ 2)) (BitVec.ofNat 32 (4 % 2 ^ 2)) = 0 := by decide
theorem test_meets_DeliveredGapsAreTrueTimes :
    3 ≤ [1, 0, 1].length ∧ (∀ u ∈ [1, 0, 1], u < 2 ^ (2 - 1)) ∧
    deliveredGaps (2 ^ 2) 3 (stampsFrom (2 ^ 2) 3 [1, 0, 1]) = [0] := by decide
theorem test_meets_ThresholdIsRoundedFourFifths : threshold 0 = 0 ∧ threshold 1 = 1 := by decide
theorem test_meets_RoundIsNearestTiesToEven :
    0 < 2 ∧ roundHalfEven 3 2 = 2 ∧ roundHalfEven 5 2 = 2 ∧ roundHalfEven 0 1 = 0 := by decide
theorem test_meets_SegmentationTilesTheGaps : [0] ≠ ([] : List Nat) ∧ framesOf [0] = [] := by decide
theorem test_meets_ModalLengthIsFirstMostFrequent : [[1, 2], [3]] ≠ ([] : List Code) := by decide

/-- V17's timestamps and its gaps. -/
def v17 : State := reducing 8 [1000, 1100, 1200, 1300, 1400, 1500, 1600, 1700]
theorem test_meets_CaptureSuccessRule :
    v17.cfg.valid = true ∧ v17.capPhase = .reducing ∧ v17.et.length = v17.cfg.nedges ∧
    deliveredGaps v17.cfg.period v17.cfg.nedges v17.et = [100, 100, 100, 100, 100, 100].map Int.ofNat ∧
    5 ≤ (keptFrames (framesOf [100, 100, 100, 100, 100, 100])).length := by decide
/-- Four frames in all, and five of which four have the modal length. -/
theorem test_meets_CaptureFailureRule :
    (framesOf [100, 100, 100, 100, 100]).length = 4 ∧
    (framesOf [100, 100, 100, 100, 100, 1, 100]).length = 5 ∧
    (keptFrames (framesOf [100, 100, 100, 100, 100, 1, 100])).length = 4 ∧
    deliveredGaps (2 ^ 32) 7 [0, 100, 200, 300, 400, 500, 600] =
      [100, 100, 100, 100, 100].map Int.ofNat ∧
    deliveredGaps (2 ^ 32) 9 [0, 100, 200, 300, 400, 500, 501, 601, 701] =
      [100, 100, 100, 100, 100, 1, 100].map Int.ofNat ∧
    (reducing 7 [0, 100, 200, 300, 400, 500, 600]).cfg.valid = true ∧
    (reducing 9 [0, 100, 200, 300, 400, 500, 501, 601, 701]).cfg.valid = true := by decide
theorem test_meets_NegativeGapIsRefused :
    (reducing 3 [1, 0, 5]).cfg.valid = true ∧ (reducing 3 [1, 0, 5]).et.length = 3 ∧
    -1 ∈ deliveredGaps (reducing 3 [1, 0, 5]).cfg.period 3 (reducing 3 [1, 0, 5]).et := by decide
theorem test_meets_DominantLengthIsCaptured :
    5 ≤ lengthCount (framesOf [100, 100, 100, 100, 100, 100]) 1 ∧
    ∀ x, x ≠ 1 → lengthCount (framesOf [100, 100, 100, 100, 100, 100]) x ≤ 4 := by
  have h : framesOf [100, 100, 100, 100, 100, 100] = List.replicate 5 [100] := by decide
  refine ⟨by decide, fun x hx => ?_⟩
  simp [h, lengthCount, Ne.symm hx]

/-- A host that issues `CAPTURE 9`, eight edges, the host's completion. -/
def captureRun : State :=
  { base cfgC with
    turns := .host :: (polls8.flatMap pollTurns ++ [.host]), bus := [.write 0 4 (encode (.capture 9))] }
theorem test_meets_CaptureRunStoresAverage :
    captureRun.cfg.valid = true ∧ captureRun.hostFree = true ∧ captureRun.running = false ∧
    captureRun.et.length = captureRun.cfg.nedges ∧ captureRun.clock.toNat < captureRun.cfg.period ∧
    polls8.length = captureRun.cfg.nedges ∧ alternates captureRun.rxLevel (polls8.map Prod.snd) = true ∧
    (∀ p ∈ polls8, p.1 < 2 ^ (captureRun.cfg.periodLog2 - 1)) ∧
    5 ≤ (keptFrames (framesOf (((polls8.map Prod.fst).drop 1).take (captureRun.cfg.nedges - 2)))).length ∧
    captureRun.turns = .host :: (polls8.flatMap pollTurns ++ [.host]) ∧
    captureRun.bus = [.write captureRun.cfg.mrcBase 4 (encode (.capture 9))] := by decide
theorem test_meets_IdenticalFramesAverageToThemselves : 5 ≤ 5 ∧ [500, 9000] ≠ ([] : Code) := by decide
theorem test_meets_QualityZeroIffFramesIdentical :
    [[500, 9000], [501, 9000]] ≠ ([] : List Code) ∧ 0 < 2 ∧
    ∀ f ∈ [[500, 9000], [501, 9000]], f.length = 2 := by decide

/-- Code 1 fills the buffer exactly. -/
theorem test_meets_TxnbStartsCallbackChain :
    storeLookup 1 (base cfgC).store = some [100, 200, 300] ∧ (base cfgC).cfg.strategy = .callback ∧
    (base cfgC).pb.length = (base cfgC).pbCap ∧
    (base cfgC).cfg.reps * [100, 200, 300].length + 1 = (base cfgC).pbCap ∧
    ∀ e ∈ [100, 200, 300], e < 2 ^ 32 := by decide
theorem test_meets_TxnbUnderGeneratorRule : ∀ native,
    storeLookup 1 (base (cfgG native)).store = some [100, 200, 300] ∧
    (base (cfgG native)).hostFree = true ∧ (base (cfgG native)).running = false ∧
    (base (cfgG native)).cfg.strategy = .generator ∧
    (base (cfgG native)).pb.length = (base (cfgG native)).pbCap ∧
    (bufferContent (cfgG native) [100, 200, 300]).length ≤ (base (cfgG native)).pbCap ∧
    (base (cfgG native)).genAccepts = true ∧
    ({ base (cfgG native) with genAccepts := false } : State).genAccepts = false := by decide
theorem test_meets_BuiltBufferElements :
    (base cfgC).pb.length = (base cfgC).pbCap ∧ (∀ e ∈ [4294967295, 0, 1], e < 2 ^ 32) ∧
    (base cfgC).cfg.reps * [4294967295, 0, 1].length + 1 ≤ (base cfgC).pbCap ∧
    [4294967295, 0, 1].length + 1 ≤ (base (cfgG true)).pbCap := by decide
theorem test_meets_AbsentKeyIsUnknownKey :
    (base cfgC).hostFree = true ∧ storeLookup 0 (base cfgC).store = none ∧
    (base cfgC).running = false := by decide
theorem test_meets_RefusedWhileBusy :
    (sampling 0 false).capPhase ≠ .idle ∧
    ({ base cfgC with txb := some ⟨[1], 0⟩ } : State).txb.isSome = true ∧
    (chain 0).capPhase = .idle ∧ (chain 0).txb = none ∧ (chain 0).running = true ∧
    (genAt 0 1).running = true := by decide
/-- One element too many for the buffer, and the least element that is too wide. -/
theorem test_meets_MisfitCodesAreRefused :
    ({ base cfgC with pbCap := 6 } : State).pbCap + 1 =
      (bufferContent cfgC [100, 200, 300]).length ∧
    storeLookup 3 (base cfgC).store = some [4294967296] ∧
    (bufferContent cfgC [4294967296]).length ≤ (base cfgC).pbCap ∧
    ∃ e ∈ [4294967296], 2 ^ 32 ≤ e := by decide
theorem test_meets_TimerFireRule :
    (chain 0).cfg.valid = true ∧ (chain 0).timerArmed = true ∧ (chain 0).crit = false ∧
    (chain 0).pb[(chain 0).index]? = some 100 ∧ (chain 2).pb[(chain 2).index]? = some 0 := by decide
theorem test_meets_CallbackChainWaveform :
    (chain 0).pstate = .running ∧ (chain 0).index = 0 ∧
    (∀ d ∈ [100, 200], 0 < d ∧ d < 2 ^ 32) ∧
    (chain 0).pb = [100, 200].map (BitVec.ofNat 32) ++ 0 :: [7, 7, 7, 7] ∧
    ({ chain 0 with turns := [.timer, .timer, .timer] } : State).turns =
      List.replicate ([100, 200].length + 1) .timer ++ [] := by decide
theorem test_meets_GeneratorStepRule :
    (genAt 0 1).cfg.valid = true ∧ (genAt 0 1).genWave[(genAt 0 1).genPos]? = some 100 ∧
    (genAt 2 2).genWave[(genAt 2 2).genPos]? = some 0 ∧ (genAt 2 2).genLoops = 2 ∧
    (genAt 2 1).genWave[(genAt 2 1).genPos]? = some 0 ∧ (genAt 2 1).genLoops = 1 := by decide
theorem test_meets_GeneratorRunWaveform :
    (genAt 0 2).genRunning = true ∧ (genAt 0 2).genPos = 0 ∧ 1 ≤ (genAt 0 2).genLoops ∧
    (genAt 0 2).genWave = [100, 200].map (BitVec.ofNat 32) ++ 0 :: [] ∧
    ({ genAt 0 2 with turns := [.gen, .gen, .gen, .gen, .gen, .gen] } : State).turns =
      List.replicate ((genAt 0 2).genLoops * ([100, 200].length + 1)) .gen ++ [] := by decide
/-- A code with a first pulse, and an empty one. -/
theorem test_meets_TxbEntersCriticalSection :
    (base cfgC).cfg.valid = true ∧ (base cfgC).hostFree = true ∧ (base cfgC).running = false ∧
    storeLookup 2 (base cfgC).store = some [400, 1200] ∧ (∀ e ∈ [400, 1200], e < 2 ^ 32) ∧
    storeLookup 4 ({ base cfgC with store := [(4, [])] } : State).store = some [] := by decide
/-- A code with a 0, as in V22. -/
def blocking : State :=
  { base cfgC with store := [(5, [100, 0, 300])], turns := List.replicate 6 .host }
theorem test_meets_BlockingTransmitWaveform :
    blocking.cfg.valid = true ∧ blocking.hostFree = true ∧ blocking.running = false ∧
    storeLookup 5 blocking.store = some [100, 0, 300] ∧ (∀ e ∈ [100, 0, 300], e < 2 ^ 32) ∧
    blocking.turns = List.replicate (blocking.cfg.reps * [100, 0, 300].length) .host ++ [] := by decide
theorem test_meets_TransmitPathsAgree : ∀ cfg ∈ [cfgC, cfgG false, cfgG true],
    (base cfg).cfg.valid = true ∧ (base cfg).hostFree = true ∧ (base cfg).running = false ∧
    (base cfg).crit = false ∧ storeLookup 2 (base cfg).store = some [400, 1200] ∧
    (∀ e ∈ [400, 1200], 0 < e ∧ e < 2 ^ 32) ∧ (base cfg).pb.length = (base cfg).pbCap ∧
    (bufferContent cfg [400, 1200]).length ≤ (base cfg).pbCap ∧ (base cfg).genAccepts = true ∧
    [400, 1200].length % 2 = 0 := by decide
theorem test_meets_AdmittedCommandsLeaveChainAlone :
    (chain 1).running = true ∧ after (exec (.delete 1) (chain 1)) (fun t => t.err) = some .none := by decide
theorem test_meets_LatencyReturnsStoredFigure : (chain 1).hostFree = true := by decide
/-- On hardware that cannot express the polarity, and elsewhere. -/
theorem test_meets_ConfigRule : ∀ cfg ∈ [cfgC, cfgG false],
    (base cfg).hostFree = true ∧ (base cfg).running = false := by decide
theorem test_meets_OnlyConfigChangesPolarity :
    after (step (access (.write 0 4 0x05000001))) (fun t => t.activeLow) = some true ∧
    (access (.write 0 4 0x05000001)).activeLow = false ∧
    after (step { base cfgC with activeLow := true, turns := [.reset] }) (fun t => t.activeLow) =
      some false := by decide
theorem test_meets_DeleteRule :
    (base cfgC).hostFree = true ∧ storeLookup 2 (base cfgC).store = some [400, 1200] ∧
    storeWf (base cfgC).store := by decide
theorem test_meets_KeysReturnsDomain : (base cfgC).hostFree = true ∧ storeWf (base cfgC).store := by decide
theorem test_meets_InspectRule :
    (base cfgC).hostFree = true ∧ storeLookup 1 (base cfgC).store = some [100, 200, 300] ∧
    storeLookup 0 (base cfgC).store = none := by decide
/-- A store that shares key 1 with the file. -/
def loading : State :=
  { base cfgC with store := [(1, [1, 2]), (3, [9])], file := .mapping [(1, [100, 200, 300]), (2, [400])] }
theorem test_meets_LoadMergesAndResizes :
    loading.hostFree = true ∧ loading.running = false ∧
    loading.file = .mapping [(1, [100, 200, 300]), (2, [400])] ∧
    storeWf [(1, [100, 200, 300]), (2, [400])] ∧ loading.mediumReadable = true := by decide
theorem test_meets_LoadedSizesFitEveryCode :
    after (exec .load loading) (fun t => (t.err, t.maxlen, t.pbCap)) = some (.none, 3, 7) := by decide
theorem test_meets_LatencyFigureBoundsEveryCode :
    after (exec .load loading) (fun t => (t.err, t.latencyMs)) = some (.none, 2400 / 1000) := by
  decide +kernel
theorem test_meets_SaveReplacesFile :
    (base cfgC).hostFree = true ∧ (base cfgC).mediumWritable = true := by decide
/-- Absent, malformed, unreadable; not writable. -/
theorem test_meets_StoreIOErrorRule :
    (base cfgC).file = .absent ∧ ({ base cfgC with file := .malformed } : State).file = .malformed ∧
    ({ loading with mediumReadable := false } : State).mediumReadable = false ∧
    ({ base cfgC with mediumWritable := false } : State).mediumWritable = false ∧
    (base cfgC).hostFree = true ∧ (base cfgC).running = false := by decide
/-- The state saved, and a fresh one that loads its file. -/
theorem test_meets_SaveThenLoadRoundTrip :
    (base cfgC).hostFree = true ∧ (base cfgC).mediumWritable = true ∧ storeWf (base cfgC).store ∧
    ({ State.resetWith cfgC with file := .mapping (base cfgC).store } : State).store = [] ∧
    ({ State.resetWith cfgC with file := .mapping (base cfgC).store } : State).hostFree = true ∧
    ({ State.resetWith cfgC with file := .mapping (base cfgC).store } : State).running = false ∧
    ({ State.resetWith cfgC with file := .mapping (base cfgC).store } : State).mediumReadable = true ∧
    after (exec .save (base cfgC)) (fun t => t.file) = some (.mapping (base cfgC).store) := by decide
theorem test_meets_OnlyLoadRecomputesSizes :
    after (step { loading with turns := [.host], bus := [.write 0 4 0x09000000] }) (fun t => t.maxlen) =
      some 3 ∧ loading.maxlen = 0 ∧
    after (step { base cfgC with turns := [.reset] }) (fun t => t.pbCap) = some 1 ∧
    (base cfgC).pbCap = 7 := by decide
theorem test_meets_FailedOperationsKeepStore :
    after (step (access (.write 0 4 0x06000008))) (fun t => t.err) = some .unknownKey ∧
    (access (.write 0 4 0x06000008)).turns = [.host] := by decide
/-- A capture, a `DELETE`, a `LOAD`, a reset. -/
theorem test_meets_StoreWritersRule :
    after (step v17) (fun t => t.store) = some [(1, [5]), (9, [100])] ∧ v17.store = [(1, [5])] ∧
    after (step (access (.write 0 4 0x06000002))) (fun t => storeKeys t.store) = some [1, 3] ∧
    after (step { loading with turns := [.host], bus := [.write 0 4 0x09000000] })
      (fun t => storeKeys t.store) = some [1, 2, 3] ∧ storeKeys loading.store = [1, 3] ∧
    after (step { base cfgC with turns := [.reset] }) (fun t => t.store) = some [] := by decide
/-- Every readable offset; the widest value that fits and the least that does not. -/
theorem test_meets_RegisterReadRule :
    [0x04, 0x08, 0x0C, 0x10, 0x14, 0x18, 0x1C, 0x20, 0x24, 0x28, 0x2C, 0x30].map (fun off =>
      after (step (access (.read off 4))) (fun t => t.rdata.toNat)) =
      [0, 0, 0, 8, 2, 0, 7, 0, 0, 0, 0, 0].map some ∧
    after (step { access (.read 0x18 4) with maxlen := 4294967295 }) (fun t => t.rdata) =
      some 4294967295 ∧
    after (step { access (.read 0x18 4) with maxlen := 4294967296 }) (fun t => t.rdata) = none := by decide
/-- The lowest and the highest read-only register; `CMD`; a half word, a wrong alignment, an address below
the window and one above it. -/
theorem test_meets_BadAccessesAreRefused :
    [HostAccess.write 0x04 4 1, .write 0x30 4 1, .read 0x00 4, .write 0x00 2 0x0A000000, .read 0x06 4,
      .read 0x34 4, .read 0x31 4].map (fun a => after (step (access a)) (fun t => t.rdata)) =
      List.replicate 7 none ∧
    after (step { access (.read 0x0F 4) with cfg := { cfgC with mrcBase := 0x10 } }) (fun t => t.rdata) =
      none := by decide

end Sys2Proof.Tests
end

section
/-! The agents of 00_scope.md R17: a turn given to an agent that is not enabled. -/

namespace Sys2Proof.Machine

/-- R122: the sampler is enabled only while a capture samples. -/
theorem samplerTurn_of_not_sampling {s : State} (h : s.capPhase ≠ .sampling) :
    samplerTurn s = .next s := by
  unfold samplerTurn
  split
  · contradiction
  · rfl
  · rfl

/-- R191, R251: the timer fires only when armed, and the critical section holds it off. -/
theorem timerTurn_of_disabled {s : State} (h : s.timerArmed = false ∨ s.crit = true) :
    timerTurn s = .next s := by
  have hoff : (s.timerArmed && !s.crit) = false := by
    rcases h with hunarmed | hcrit
    · rw [hunarmed, Bool.false_and]
    · rw [hcrit, Bool.not_true, Bool.and_false]
  simp [timerTurn, hoff]

/-- R201: the generator is enabled only while it runs. -/
theorem genTurn_of_not_running {s : State} (h : s.genRunning = false) : genTurn s = .next s := by
  simp [genTurn, h]

/-- R122: the host waits while its capture samples. -/
theorem hostTurn_of_sampling {s : State} (h : s.capPhase = .sampling) : hostTurn s = .next s := by
  rw [hostTurn, h]

/-- Settles O15: whichever agent has the turn, its own turn lemma lets it pass. -/
theorem disabledAgentsHaveNoStep : Obligations.DisabledAgentsHaveNoStep := by
  intro s a ts hvalid hturns hdisabled
  rw [step_of_turn hvalid hturns]
  rcases hdisabled with ⟨rfl, hphase⟩ | ⟨rfl, hunarmed⟩ | ⟨rfl, hcrit⟩ | ⟨rfl, hstopped⟩ | ⟨rfl, hphase⟩
  · exact samplerTurn_of_not_sampling hphase
  · exact timerTurn_of_disabled (.inl hunarmed)
  · exact timerTurn_of_disabled (.inr hcrit)
  · exact genTurn_of_not_running hstopped
  · exact hostTurn_of_sampling hphase

end Sys2Proof.Machine
end

section
/-! Exact rounding (00_scope.md R15). -/

namespace Sys2Proof.Machine

/-- R15: a quotient is rounded down to an integer at most half a unit below it or up to one at most half a
unit above it, on a tie to the even one. -/
theorem roundHalfEven_cases (n d : Nat) :
    (roundHalfEven n d = n / d ∧ 2 * (n % d) ≤ d ∧ (2 * (n % d) = d → n / d % 2 = 0)) ∨
    (roundHalfEven n d = n / d + 1 ∧ d ≤ 2 * (n % d) ∧ (2 * (n % d) = d → (n / d + 1) % 2 = 0)) := by
  unfold roundHalfEven
  split
  case isTrue hbelow => exact .inl ⟨rfl, by omega, by omega⟩
  case isFalse =>
    split
    case isTrue habove => exact .inr ⟨rfl, by omega, by omega⟩
    case isFalse =>
      split
      case isTrue heven => exact .inl ⟨rfl, by omega, fun _ => heven⟩
      case isFalse hodd => exact .inr ⟨rfl, by omega, by omega⟩

/-- Settles O20: division with remainder, then the two ways to round. -/
theorem roundIsNearestTiesToEven : Obligations.RoundIsNearestTiesToEven := by
  intro n d hd
  have hdiv : d * (n / d) + n % d = n := Nat.div_add_mod n d
  have hrem : n % d < d := Nat.mod_lt n hd
  rcases roundHalfEven_cases n d with ⟨hround, hhalf, htie⟩ | ⟨hround, hhalf, htie⟩
  · rw [hround]
    exact ⟨by omega, by omega, fun hmid => htie (by omega)⟩
  · rw [hround, Nat.mul_add_one]
    exact ⟨by omega, by omega, fun hmid => htie (by omega)⟩

end Sys2Proof.Machine
end

section
/-! Every step keeps the invariant (10_state.md R45). -/

namespace Sys2Proof.Machine

/-! The shared operations. Where an operation writes only fields of which the invariant says nothing, each
clause of the old state is the clause of the new one. -/

theorem succeed_inv {s : State} (hi : Inv s) (r : Ret) : Inv (s.succeed r) := { hi with }

theorem pinWrite_inv {s : State} (hi : Inv s) (l : Bool) (held : Option Nat) : Inv (s.pinWrite l held) :=
  { hi with }

/-- R247 (3): an error leaves `CAP_PHASE` idle where it was idle. -/
theorem phaseAfter_idle (x : Raised) : x.phaseAfter .idle = .idle := by
  cases x <;> rfl

theorem raise_inv {s : State} (hi : Inv s) (hp : s.capPhase = .idle) (x : Raised) : Inv (s.raise x) := by
  have hphase : x.phaseAfter s.capPhase = s.capPhase := by rw [hp, phaseAfter_idle]
  have hraise : s.raise x = { s with err := x.kind, ret := .raised x } := by rw [State.raise, hphase]
  rw [hraise]
  exact { hi with }

/-- R301: what the transients of a returned capture hold keeps their lengths and ranges. -/
theorem discardTransients_inv {s : State} (hi : Inv s) : Inv s.discardTransients :=
  { hi with
    etLength := deadStamps_length _ _
    etStamps := fun _ ht => deadStamps_lt ht
    gsLength := deadGaps_length _ _
    gsRange := fun _ hg => deadGaps_range hg }

/-! Reset and ENV. -/

/-- R44: the state right after reset, under a configuration within R9's bounds. -/
theorem resetWith_inv {c : Config} (hc : c.valid = true) : Inv (State.resetWith c) where
  valid := hc
  etLength := List.length_replicate
  etStamps := fun t ht => by
    obtain rfl : t = 0 := List.eq_of_mem_replicate ht
    exact period_pos
  edgeLe := Nat.zero_le _
  samplingRoom := nofun
  reducingFull := nofun
  gsLength := List.length_replicate
  gsRange := fun g hg => by
    obtain rfl : g = 0 := List.eq_of_mem_replicate hg
    decide
  resultOk := nofun
  pbLength := rfl
  pbRoom := Nat.le_refl 1
  indexRange := Nat.zero_lt_one
  chain := nofun
  armed := nofun
  generator := nofun
  polarity := nofun
  critical := rfl
  oneCommand := nofun
  quiet := nofun
  txbRange := nofun
  storeCanonical := storeWf_nil
  clockRange := period_pos

/-- R280, R282: the reset transition keeps the clock, and gives every other element its reset value. -/
theorem resetFrom_inv {s : State} (hi : Inv s) : Inv s.resetFrom :=
  { resetWith_inv hi.valid with clockRange := hi.clockRange }

/-- R124: the clock register after `us` more microseconds, as a number. -/
theorem clock_toNat {c : Config} (hc : c.valid = true) (n : Nat) :
    (BitVec.ofNat 32 (n % c.period)).toNat = n % c.period := by
  rw [BitVec.toNat_ofNat]
  exact Nat.mod_eq_of_lt ((Nat.mod_lt n period_pos).trans_le (period_le hc))

theorem environment_inv {s : State} (hi : Inv s) (e : EnvEvent) : Inv (s.environment e) := by
  cases e with
  | advanceClock us =>
    have hclock : (s.environment (.advanceClock us)).clock.toNat < s.cfg.period := by
      rw [State.environment, clock_toNat hi.valid]
      exact Nat.mod_lt _ period_pos
    exact { hi with clockRange := hclock }
  | driveRx level => exact { hi with }
  | setMedium readable writable => exact { hi with }
  | setFile f => exact { hi with }
  | setGenAccepts accepts => exact { hi with }

/-! Capture. -/

/-- R120: from a free and quiet host, sampling begins with an empty timeline. -/
theorem execCapture_inv {k : Nat} {s t : State} (hi : Inv s) (h : execCapture k s = .next t) : Inv t := by
  obtain ⟨hfree, hquiet, rfl⟩ := execCapture_next h
  obtain ⟨-, htxb⟩ := hostFree_iff.1 hfree
  obtain ⟨hnedges, -⟩ := valid_bounds hi.valid
  have hroom : 0 < s.cfg.nedges := by omega
  exact
    { hi with
      edgeLe := Nat.zero_le _
      samplingRoom := fun _ => hroom
      reducingFull := nofun
      critical := rfl
      oneCommand := fun hsome => by simp [htxb] at hsome
      quiet := fun _ => hquiet }

/-- R122: one more edge; with the last one, sampling and the critical section end together. -/
theorem recordEdge_inv {s t : State} (hi : Inv s) (hp : s.capPhase = .sampling)
    (h : recordEdge s = .next t) : Inv t := by
  obtain ⟨-, rfl⟩ := recordEdge_next h
  have hroom := hi.samplingRoom hp
  have hidle : s.txb = none := by
    cases htxb : s.txb with
    | none => rfl
    | some r => simpa [hp] using hi.oneCommand (by rw [htxb]; rfl)
  have hquiet : s.running = false := hi.quiet (by simp [State.hostFree, hp])
  have hstamps : ∀ t ∈ s.et.set s.edgeX s.clock, t.toNat < s.cfg.period := fun t ht => by
    rcases List.mem_or_eq_of_mem_set ht with hold | rfl
    · exact hi.etStamps t hold
    · exact hi.clockRange
  have hcrit : s.crit = true := by rw [hi.critical, hp]; rfl
  exact
    { hi with
      etLength := List.length_set.trans hi.etLength
      etStamps := hstamps
      edgeLe := hroom
      samplingRoom := fun hs => by
        simp only at hs ⊢
        split at hs
        · cases hs
        · omega
      reducingFull := fun hr => by
        simp only at hr ⊢
        split at hr
        · assumption
        · rw [hp] at hr; cases hr
      critical := by
        simp only [hidle, hp, hcrit]
        split <;> rfl
      oneCommand := fun hsome => by simp [hidle] at hsome
      quiet := fun _ => hquiet }

theorem samplerTurn_inv {s t : State} (hi : Inv s) (h : samplerTurn s = .next t) : Inv t := by
  rcases samplerTurn_next h with ⟨hp, h⟩ | ⟨-, rfl⟩
  · rcases samplerStep_next h with ⟨-, rfl⟩ | ⟨-, h⟩
    · exact hi
    · exact recordEdge_inv hi hp h
  · exact hi

/-- R28: what `Inv.resultOk` says of the result of a successful capture. -/
def CapResult.Consistent (r : CapResult) : Prop :=
  r.error = .none ∧ minFrames ≤ r.framesKept ∧ r.framesKept + r.discarded = r.framesTotal

/-- R146 to R150: frames are judged a failure without a code, or a success with one. -/
theorem judgeFrames_cases (q : List Rat) (frames : List Code) :
    (∃ r, r.ok = false ∧ judgeFrames q frames = (r, none)) ∨
    ∃ r c, r.ok = true ∧ r.Consistent ∧ judgeFrames q frames = (r, some c) := by
  rcases Nat.lt_or_ge (keptFrames frames).length 5 with hkept | hkept
  · rcases Nat.lt_or_ge frames.length 5 with htotal | htotal
    · exact .inl ⟨_, rfl, judgeFrames_of_few htotal⟩
    · exact .inl ⟨_, rfl, judgeFrames_of_few_kept htotal hkept⟩
  · have hle : (keptFrames frames).length ≤ frames.length := List.length_filter_le _ _
    refine .inr ⟨_, _, rfl, ?_, judgeFrames_of_enough hkept⟩
    exact ⟨rfl, hkept, Nat.add_sub_cancel' hle⟩

/-- The state of a reduction before it is reported (R140 to R144). -/
def State.withGaps (s : State) (gs : List Int) : State :=
  { s with gs := gs, thr := gapThreshold (gs.map Int.toNat), frames := framesOf (gs.map Int.toNat) }

/-- R152: a reduction raises `CaptureTooFewFrames`, or stores a code and returns. -/
theorem reduceGaps_cases (s : State) (gs : List Int) :
    (∃ r, r.ok = false ∧
      reduceGaps s gs = State.raise { s.withGaps gs with capResult := r } (.captureTooFewFrames r)) ∨
    ∃ r c, r.ok = true ∧ r.Consistent ∧
      reduceGaps s gs = State.succeed
        { s.withGaps gs with
          capResult := r
          store := storeInsert s.capKey c s.store
          capPhase := .idle } (.captured r) := by
  unfold reduceGaps
  rcases judgeFrames_cases (Config.freeVariances s.draws) (framesOf (gs.map Int.toNat)) with
    ⟨r, hfail, hjudge⟩ | ⟨r, c, hok, hresult, hjudge⟩
  · exact .inl ⟨r, hfail, by rw [hjudge]; rfl⟩
  · exact .inr ⟨r, c, hok, hresult, by rw [hjudge]; rfl⟩

/-- R26: gaps as many as `GS` holds, each non-negative and within i32. -/
theorem withGaps_inv {s : State} (hi : Inv s) {gs : List Int} (hlen : gs.length = s.cfg.nedges - 2)
    (hrange : ∀ g ∈ gs, 0 ≤ g ∧ g < 2 ^ 31) : Inv (s.withGaps gs) :=
  { hi with gsLength := hlen, gsRange := hrange }

/-- R120: the host leaves its capture with a result and a store. -/
theorem endCapture_inv {s : State} (hi : Inv s) (hp : s.capPhase = .reducing) {r : CapResult}
    (hr : r.ok = true → r.Consistent) {m : Store} (hm : storeWf m) :
    Inv { s with capResult := r, store := m, capPhase := .idle } := by
  have hquiet : s.running = false := hi.quiet (by simp [State.hostFree, hp])
  have hcrit : s.crit = s.txb.isSome := by rw [hi.critical, hp]; rfl
  exact
    { hi with
      samplingRoom := nofun
      reducingFull := nofun
      resultOk := hr
      critical := hcrit
      oneCommand := fun _ => rfl
      quiet := fun _ => hquiet
      storeCanonical := hm }

theorem finishCapture_inv {s t : State} (hi : Inv s) (hp : s.capPhase = .reducing)
    (h : finishCapture s = .next t) : Inv t := by
  obtain ⟨-, hnonneg, rfl⟩ := finishCapture_next h
  have hlen := deliveredGaps_length (period := s.cfg.period) hi.etLength
  have hrange : ∀ g ∈ deliveredGaps s.cfg.period s.cfg.nedges s.et, 0 ≤ g ∧ g < 2 ^ 31 := fun g hg => by
    obtain ⟨a, b, rfl⟩ := mem_rawGaps _ _ g hg
    exact ⟨hnonneg _ hg, diff_lt hi.valid a b⟩
  have hgaps := withGaps_inv hi hlen hrange
  apply discardTransients_inv
  rcases reduceGaps_cases s (deliveredGaps s.cfg.period s.cfg.nedges s.et) with
    ⟨r, hfail, heq⟩ | ⟨r, c, -, hresult, heq⟩
  · rw [heq]
    have hend := endCapture_inv hgaps hp (r := r) (by simp [hfail]) hi.storeCanonical
    exact raise_inv hend rfl (.captureTooFewFrames r)
  · rw [heq]
    exact succeed_inv (endCapture_inv hgaps hp (fun _ => hresult) (storeInsert_wf hi.storeCanonical)) _

/-! Transmission. -/

/-- A position that does not hold the sentinel leaves it ahead (R201, R45 (5)). -/
theorem sentinel_ahead {l : List Word} {i : Nat} {d : Word} (hd : l[i]? = some d) (hne : d ≠ 0)
    (h : 0 ∈ l.drop i) : 0 ∈ l.drop (i + 1) := by
  obtain ⟨hi, rfl⟩ := List.getElem?_eq_some_iff.1 hd
  rw [List.drop_eq_getElem_cons hi] at h
  rcases List.mem_cons.1 h with heq | hmem
  · exact absurd heq.symm hne
  · exact hmem

/-- R192: on the sentinel the chain stops, and before it the next expiry is scheduled. -/
theorem timerTurn_inv {s t : State} (hi : Inv s) (h : timerTurn s = .next t) : Inv t := by
  rcases timerTurn_next h with ⟨-, rfl⟩ | ⟨harmed, -, d, hd, rfl⟩
  · exact hi
  have hrun : s.pstate = .running := hi.armed harmed
  obtain ⟨hcallback, -, hahead⟩ := hi.chain hrun
  unfold fireOn
  split
  case isTrue =>
    have hquiet : s.hostFree = false → s.genRunning = false := fun hbusy =>
      (running_eq_false.1 (hi.quiet hbusy)).2
    exact
      { hi with
        chain := nofun
        armed := nofun
        quiet := fun hbusy => running_eq_false.2 ⟨nofun, hquiet hbusy⟩ }
  case isFalse hne =>
    have hnext : 0 ∈ s.pb.drop (s.index + 1) := sentinel_ahead hd hne hahead
    have hlt : s.index + 1 < s.pbCap := by
      have := List.length_pos_of_mem hnext
      rw [List.length_drop, hi.pbLength] at this
      omega
    exact
      { hi with
        indexRange := hlt
        chain := fun _ => ⟨hcallback, rfl, hnext⟩
        armed := fun _ => hrun }

/-- R201: on the sentinel the generator starts over or stops, and before it goes on. -/
theorem genTurn_inv {s t : State} (hi : Inv s) (h : genTurn s = .next t) : Inv t := by
  rcases genTurn_next h with ⟨-, rfl⟩ | ⟨hrun, d, hd, rfl⟩
  · exact hi
  obtain ⟨hstrategy, hloops, hahead⟩ := hi.generator hrun
  unfold generateOn
  split
  case isTrue =>
    split
    case isTrue hmore =>
      have hagain : 1 ≤ s.genLoops - 1 := by omega
      exact { hi with generator := fun _ => ⟨hstrategy, hagain, List.mem_of_mem_drop hahead⟩ }
    case isFalse =>
      have hquiet : s.hostFree = false → s.pstate ≠ .running := fun hbusy =>
        (running_eq_false.1 (hi.quiet hbusy)).1
      exact
        { hi with
          generator := nofun
          quiet := fun hbusy => running_eq_false.2 ⟨hquiet hbusy, rfl⟩ }
  case isFalse hne =>
    exact { hi with generator := fun _ => ⟨hstrategy, hloops, sentinel_ahead hd hne hahead⟩ }

/-- R170: a free host starts what it has built, sentinel included. -/
theorem startTransmission_inv {len : Nat} {s : State} (hi : Inv s) (hfree : s.hostFree = true)
    (hsentinel : 0 ∈ s.pb.take len) : Inv (startTransmission len s) := by
  have hbusy : s.hostFree ≠ false := by rw [hfree]; nofun
  cases hs : s.cfg.strategy with
  | callback =>
    rw [startTransmission_callback hs]
    have hchain : Inv (startChain s) :=
      { hi with
        indexRange := hi.pbRoom
        chain := fun _ => ⟨hs, rfl, List.mem_of_mem_take hsentinel⟩
        armed := fun _ => rfl
        quiet := fun h => absurd h hbusy }
    exact succeed_inv hchain .done
  | generator =>
    rw [startTransmission_generator hs]
    unfold loadAndRun
    split
    case isTrue =>
      have hloops : 1 ≤ if s.cfg.genNativeLoop then s.cfg.reps else 1 := by
        obtain ⟨-, -, hreps, -⟩ := valid_bounds hi.valid
        split
        · exact hreps
        · exact Nat.le_refl 1
      exact
        { hi with
          generator := fun _ => ⟨hs, hloops, hsentinel⟩
          quiet := fun h => absurd h hbusy }
    case isFalse => exact raise_inv hi (hostFree_iff.1 hfree).1 _

/-- R172: the buffer's content ends with the sentinel. -/
theorem zero_mem_bufferContent (cfg : Config) (c : Code) : 0 ∈ bufferContent cfg c := by
  unfold bufferContent
  split <;> exact List.mem_append_right _ (List.mem_singleton_self 0)

theorem execTxnb_inv {k : Nat} {s t : State} (hi : Inv s) (h : execTxnb k s = .next t) : Inv t := by
  obtain ⟨hfree, hquiet, ⟨-, rfl⟩ | ⟨c, u, -, hbuild, rfl⟩⟩ := execTxnb_next h
  · exact raise_inv hi (hostFree_iff.1 hfree).1 _
  obtain ⟨hfits, -, rfl⟩ := buildBuffer_next hbuild
  have hstopped := running_eq_false.1 hquiet
  have hlen : ((bufferContent s.cfg c).map (BitVec.ofNat 32) ++
      s.pb.drop (bufferContent s.cfg c).length).length = s.pbCap := by
    rw [List.length_append, List.length_map, List.length_drop, hi.pbLength]
    omega
  have hsentinel : (0 : Word) ∈ (bufferContent s.cfg c).map (BitVec.ofNat 32) :=
    List.mem_map.2 ⟨0, zero_mem_bufferContent _ _, rfl⟩
  refine startTransmission_inv ?_ hfree ?_
  · exact { hi with pbLength := hlen, chain := fun hrun => absurd hrun hstopped.1 }
  · rw [List.take_left' (List.length_map _)]
    exact hsentinel

/-- R204: a `TXB`, already in its critical section, starts the next pulse or ends. -/
theorem txbStep_inv {r : TxbRun} {s : State} (hi : Inv s) (hp : s.capPhase = .idle)
    (hquiet : s.running = false) (hfits : ∀ e ∈ r.code, e < 2 ^ 32) :
    Inv (txbStep r { s with crit := true }) := by
  unfold txbStep
  split
  case isTrue hlt =>
    have hrange : ∀ r', some (⟨r.code, r.pos + 1⟩ : TxbRun) = some r' →
        1 ≤ r'.pos ∧ r'.pos ≤ s.cfg.reps * r'.code.length ∧ ∀ e ∈ r'.code, e < 2 ^ 32 := by
      rintro _ ⟨⟩
      exact ⟨Nat.le_add_left 1 _, hlt, hfits⟩
    exact
      { hi with
        critical := (Bool.or_true _).symm
        oneCommand := fun _ => hp
        quiet := fun _ => hquiet
        txbRange := hrange }
  case isFalse =>
    have hcrit : false = (s.capPhase == .sampling || (none : Option TxbRun).isSome) := by rw [hp]; rfl
    exact
      { hi with
        critical := hcrit
        oneCommand := nofun
        quiet := fun _ => hquiet
        txbRange := nofun }

theorem execTxb_inv {k : Nat} {s t : State} (hi : Inv s) (h : execTxb k s = .next t) : Inv t := by
  obtain ⟨hfree, hquiet, ⟨-, rfl⟩ | ⟨c, -, hfits, rfl⟩⟩ := execTxb_next h
  · exact raise_inv hi (hostFree_iff.1 hfree).1 _
  · exact txbStep_inv hi (hostFree_iff.1 hfree).1 hquiet (fitsU32_iff.1 hfits)

/-- R64, R204: the host's turn that ends a sleep of its `TXB`. -/
theorem txbStep_inv_of_sleeping {r : TxbRun} {s : State} (hi : Inv s) (hr : s.txb = some r) :
    Inv (txbStep r s) := by
  have hsome : s.txb.isSome = true := by rw [hr]; rfl
  have hquiet : s.running = false := hi.quiet (by simp [State.hostFree, hr])
  have hcrit : s.crit = true := by rw [hi.critical, hsome, Bool.or_true]
  obtain ⟨-, -, hfits⟩ := hi.txbRange r hr
  have hstep := txbStep_inv hi (hi.oneCommand hsome) hquiet hfits
  rwa [← hcrit] at hstep

/-- R178 (d): `CONFIG` takes no polarity that the hardware cannot express. -/
theorem execConfig_inv {a : Bool} {s t : State} (hi : Inv s) (h : execConfig a s = .next t) : Inv t := by
  obtain ⟨hfree, -, ⟨-, rfl⟩ | ⟨hexpressed, rfl⟩⟩ := execConfig_next h
  · exact raise_inv hi (hostFree_iff.1 hfree).1 _
  · have hpolarity : a = true → s.cfg.strategy = .generator → s.cfg.genActiveLowOk = true := by
      rintro rfl hs
      simpa [polarityUnsupported, hs] using hexpressed
    exact { hi with polarity := hpolarity }

/-! The CodeStore. -/

theorem execDelete_inv {k : Nat} {s t : State} (hi : Inv s) (h : execDelete k s = .next t) : Inv t := by
  obtain ⟨hfree, ⟨-, rfl⟩ | ⟨-, rfl⟩⟩ := execDelete_next h
  · exact raise_inv hi (hostFree_iff.1 hfree).1 _
  · exact { hi with storeCanonical := storeErase_wf hi.storeCanonical }

theorem execInspect_inv {k : Nat} {s t : State} (hi : Inv s) (h : execInspect k s = .next t) : Inv t := by
  obtain ⟨hfree, ⟨-, rfl⟩ | ⟨c, -, rfl⟩⟩ := execInspect_next h
  · exact raise_inv hi (hostFree_iff.1 hfree).1 _
  · exact succeed_inv hi _

/-- R226: the re-sized buffer has room for the sentinel. -/
theorem bufferSize_pos (cfg : Config) (maxlen : Nat) : 0 < bufferSize cfg maxlen := by
  unfold bufferSize
  split <;> exact Nat.succ_pos _

/-- R226: a quiet machine takes a canonical store and a buffer of the size that goes with it. -/
theorem installStore_inv {m : Store} {s : State} (hi : Inv s) (hquiet : s.running = false)
    (hm : storeWf m) : Inv (installStore m s) := by
  have hstopped := running_eq_false.1 hquiet
  exact
    { hi with
      pbLength := (List.length_map _).trans List.length_range
      pbRoom := bufferSize_pos _ _
      indexRange := indexWithin_lt (bufferSize_pos _ _)
      chain := fun hrun => absurd hrun hstopped.1
      storeCanonical := hm }

theorem execLoad_inv {s t : State} (hi : Inv s) (h : execLoad s = .next t) : Inv t := by
  obtain ⟨hfree, hquiet, ⟨-, rfl⟩ | ⟨m, -, rfl⟩⟩ := execLoad_next h
  · exact raise_inv hi (hostFree_iff.1 hfree).1 _
  · exact succeed_inv (installStore_inv hi hquiet (storeMerge_wf m hi.storeCanonical)) _

theorem execSave_inv {s t : State} (hi : Inv s) (h : execSave s = .next t) : Inv t := by
  obtain ⟨hfree, ⟨-, rfl⟩ | ⟨-, rfl⟩⟩ := execSave_next h
  · exact { hi with }
  · have hfile : Inv { s with file := Config.freeFile s.draws, draws := s.draws + 1 } := { hi with }
    exact raise_inv hfile (hostFree_iff.1 hfree).1 _

/-! The commands, the turns, the step. -/

theorem exec_inv {i : Instr} {s t : State} (hi : Inv s) (h : exec i s = .next t) : Inv t := by
  cases i with
  | capture k => exact execCapture_inv hi h
  | txnb k => exact execTxnb_inv hi h
  | txb k => exact execTxb_inv hi h
  | latency =>
    obtain ⟨-, rfl⟩ := execLatency_next h
    exact succeed_inv hi _
  | config a => exact execConfig_inv hi h
  | delete k => exact execDelete_inv hi h
  | keys =>
    obtain ⟨-, rfl⟩ := execKeys_next h
    exact succeed_inv hi _
  | inspect k => exact execInspect_inv hi h
  | load => exact execLoad_inv hi h
  | save => exact execSave_inv hi h

theorem hostAccess_inv {a : HostAccess} {s t : State} (hi : Inv s) (hfree : s.hostFree = true)
    (h : hostAccess a s = .next t) : Inv t := by
  rcases hostAccess_next h with ⟨v, rfl⟩ | ⟨w, -, h⟩
  · exact { hi with }
  · rcases issueCommand_next h with ⟨i, -, h⟩ | ⟨e, -, rfl⟩
    · exact exec_inv hi h
    · exact raise_inv hi (hostFree_iff.1 hfree).1 _

theorem hostTurn_inv {s t : State} (hi : Inv s) (h : hostTurn s = .next t) : Inv t := by
  rcases hostTurn_next h with ⟨-, rfl⟩ | ⟨hp, h⟩ | ⟨-, r, hr, rfl⟩ | ⟨-, -, rfl⟩ | ⟨hfree, a, rest, -, h⟩
  · exact hi
  · exact finishCapture_inv hi hp h
  · exact txbStep_inv_of_sleeping hi hr
  · exact hi
  · have hbus : Inv { s with bus := rest } := { hi with }
    exact hostAccess_inv hbus hfree h

theorem takeTurn_inv {a : Turn} {s t : State} (hi : Inv s) (h : takeTurn a s = .next t) : Inv t := by
  cases a with
  | host => exact hostTurn_inv hi h
  | sampler => exact samplerTurn_inv hi h
  | timer => exact timerTurn_inv hi h
  | gen => exact genTurn_inv hi h
  | env e => cases h; exact environment_inv hi e
  | reset => cases h; exact resetFrom_inv hi

/-- Settles O10: the turn that the step takes keeps the invariant. -/
theorem stepKeepsInvariant : Obligations.StepKeepsInvariant := by
  intro s t hi h
  obtain ⟨-, ⟨-, rfl⟩ | ⟨a, ts, -, h⟩⟩ := step_next h
  · exact hi
  · have hturns : Inv { s with turns := ts } := { hi with }
    exact takeTurn_inv hturns h

end Sys2Proof.Machine
end

section
/-! Who writes `ACTIVE_LOW`, `STORE` and the sizes computed at load (10_state.md R30, R34, R35). -/

namespace Sys2Proof.Machine

/-- The elements that outlast a command and that only a few commands write (R30, R34, R35) are the same in
both states. -/
structure SameSettings (s t : State) : Prop where
  activeLow : t.activeLow = s.activeLow
  store : t.store = s.store
  latencyMs : t.latencyMs = s.latencyMs
  maxlen : t.maxlen = s.maxlen
  pbCap : t.pbCap = s.pbCap

theorem SameSettings.refl (s : State) : SameSettings s s := ⟨rfl, rfl, rfl, rfl, rfl⟩

/-- What a step from `s` to `t` may write of the elements of `SameSettings`, by who writes them. -/
inductive SettingsEffect (s t : State) : Prop
  | kept (same : SameSettings s t)
  | reset (ts : List Turn) (hturns : s.turns = .reset :: ts)
  /-- R152: a successful capture stores its code. -/
  | captured (ts : List Turn) (m : Store) (hturns : s.turns = .host :: ts) (hphase : s.capPhase = .reducing)
      (hok : t.capResult.ok = true) (herr : t.err = .none) (same : SameSettings { s with store := m } t)
  /-- R100: a command that has a meaning ran, with its word from the bus. -/
  | command (ts : List Turn) (bs : List HostAccess) (w : Word) (i : Instr) (hturns : s.turns = .host :: ts)
      (hbus : s.bus = .write s.cfg.mrcBase 4 w :: bs) (hdecode : decode w = .ok i)
      (hexec : exec i { s with turns := ts, bus := bs } = .next t)

/-- What a command may write of the elements of `SameSettings`, and that it leaves no error when it writes
`STORE`. -/
inductive CommandEffect (i : Instr) (s t : State) : Prop
  | kept (same : SameSettings s t)
  /-- R178. -/
  | config (a : Bool) (hi : i = .config a) (same : SameSettings { s with activeLow := a } t)
  /-- R220. -/
  | delete (k : Key) (m : Store) (hi : i = .delete k) (herr : t.err = .none)
      (same : SameSettings { s with store := m } t)
  /-- R226. -/
  | load (hi : i = .load) (herr : t.err = .none) (hactiveLow : t.activeLow = s.activeLow)

/-! No transmission writes them, nor does ENV. -/

theorem startTransmission_sameSettings (len : Nat) (s : State) :
    SameSettings s (startTransmission len s) := by
  unfold startTransmission loadAndRun
  split
  · exact ⟨rfl, rfl, rfl, rfl, rfl⟩
  · split <;> exact ⟨rfl, rfl, rfl, rfl, rfl⟩

theorem txbStep_sameSettings (r : TxbRun) (s : State) : SameSettings s (txbStep r s) := by
  unfold txbStep
  split <;> exact ⟨rfl, rfl, rfl, rfl, rfl⟩

theorem samplerTurn_sameSettings {s t : State} (h : samplerTurn s = .next t) : SameSettings s t := by
  rcases samplerTurn_next h with ⟨-, h⟩ | ⟨-, rfl⟩
  · rcases samplerStep_next h with ⟨-, rfl⟩ | ⟨-, h⟩
    · exact .refl _
    · obtain ⟨-, rfl⟩ := recordEdge_next h
      exact ⟨rfl, rfl, rfl, rfl, rfl⟩
  · exact .refl _

theorem timerTurn_sameSettings {s t : State} (h : timerTurn s = .next t) : SameSettings s t := by
  rcases timerTurn_next h with ⟨-, rfl⟩ | ⟨-, -, d, -, rfl⟩
  · exact .refl _
  · unfold fireOn
    split <;> exact ⟨rfl, rfl, rfl, rfl, rfl⟩

theorem genTurn_sameSettings {s t : State} (h : genTurn s = .next t) : SameSettings s t := by
  rcases genTurn_next h with ⟨-, rfl⟩ | ⟨-, d, -, rfl⟩
  · exact .refl _
  · unfold generateOn
    split
    · split <;> exact ⟨rfl, rfl, rfl, rfl, rfl⟩
    · exact ⟨rfl, rfl, rfl, rfl, rfl⟩

theorem environment_sameSettings (s : State) (e : EnvEvent) : SameSettings s (s.environment e) := by
  cases e <;> exact ⟨rfl, rfl, rfl, rfl, rfl⟩

/-- R121, R152: the end of a capture writes `STORE` when it succeeds, and nothing when it fails. -/
theorem finishCapture_settings {s t : State} (h : finishCapture s = .next t) :
    SameSettings s t ∨
    ∃ m, t.capResult.ok = true ∧ t.err = .none ∧ SameSettings { s with store := m } t := by
  obtain ⟨-, -, rfl⟩ := finishCapture_next h
  rcases reduceGaps_cases s (deliveredGaps s.cfg.period s.cfg.nedges s.et) with
    ⟨r, -, heq⟩ | ⟨r, c, hok, -, heq⟩
  · rw [heq]
    exact .inl ⟨rfl, rfl, rfl, rfl, rfl⟩
  · rw [heq]
    exact .inr ⟨_, hok, rfl, ⟨rfl, rfl, rfl, rfl, rfl⟩⟩

/-- R242: of the ten commands only `CONFIG`, `DELETE` and `LOAD` write them, and only when they succeed. -/
theorem exec_commandEffect {i : Instr} {s t : State} (h : exec i s = .next t) : CommandEffect i s t := by
  cases i with
  | capture k =>
    obtain ⟨-, -, rfl⟩ := execCapture_next h
    exact .kept ⟨rfl, rfl, rfl, rfl, rfl⟩
  | txnb k =>
    obtain ⟨-, -, ⟨-, rfl⟩ | ⟨c, u, -, hbuild, rfl⟩⟩ := execTxnb_next h
    · exact .kept ⟨rfl, rfl, rfl, rfl, rfl⟩
    · obtain ⟨-, -, rfl⟩ := buildBuffer_next hbuild
      exact .kept { startTransmission_sameSettings (bufferContent s.cfg c).length _ with }
  | txb k =>
    obtain ⟨-, -, ⟨-, rfl⟩ | ⟨c, -, -, rfl⟩⟩ := execTxb_next h
    · exact .kept ⟨rfl, rfl, rfl, rfl, rfl⟩
    · exact .kept { txbStep_sameSettings _ _ with }
  | latency =>
    obtain ⟨-, rfl⟩ := execLatency_next h
    exact .kept ⟨rfl, rfl, rfl, rfl, rfl⟩
  | config a =>
    obtain ⟨-, -, ⟨-, rfl⟩ | ⟨-, rfl⟩⟩ := execConfig_next h
    · exact .kept ⟨rfl, rfl, rfl, rfl, rfl⟩
    · exact .config a rfl ⟨rfl, rfl, rfl, rfl, rfl⟩
  | delete k =>
    obtain ⟨-, ⟨-, rfl⟩ | ⟨-, rfl⟩⟩ := execDelete_next h
    · exact .kept ⟨rfl, rfl, rfl, rfl, rfl⟩
    · exact .delete k _ rfl rfl ⟨rfl, rfl, rfl, rfl, rfl⟩
  | keys =>
    obtain ⟨-, rfl⟩ := execKeys_next h
    exact .kept ⟨rfl, rfl, rfl, rfl, rfl⟩
  | inspect k =>
    obtain ⟨-, ⟨-, rfl⟩ | ⟨c, -, rfl⟩⟩ := execInspect_next h
    · exact .kept ⟨rfl, rfl, rfl, rfl, rfl⟩
    · exact .kept ⟨rfl, rfl, rfl, rfl, rfl⟩
  | load =>
    obtain ⟨-, -, ⟨-, rfl⟩ | ⟨m, -, rfl⟩⟩ := execLoad_next h
    · exact .kept ⟨rfl, rfl, rfl, rfl, rfl⟩
    · exact .load rfl rfl rfl
  | save =>
    obtain ⟨-, ⟨-, rfl⟩ | ⟨-, rfl⟩⟩ := execSave_next h
    · exact .kept ⟨rfl, rfl, rfl, rfl, rfl⟩
    · exact .kept ⟨rfl, rfl, rfl, rfl, rfl⟩

/-- The host's turn: a sleep or an access other than a command writes none of them. -/
theorem hostTurn_settingsEffect {s t : State} {ts : List Turn} (hturns : s.turns = .host :: ts)
    (h : hostTurn { s with turns := ts } = .next t) : SettingsEffect s t := by
  rcases hostTurn_next h with
    ⟨-, rfl⟩ | ⟨hphase, h⟩ | ⟨-, r, -, rfl⟩ | ⟨-, -, rfl⟩ | ⟨-, a, bs, hbus, haccess⟩
  · exact .kept ⟨rfl, rfl, rfl, rfl, rfl⟩
  · rcases finishCapture_settings h with same | ⟨m, hok, herr, same⟩
    · exact .kept { same with }
    · exact .captured ts m hturns hphase hok herr { same with }
  · exact .kept { txbStep_sameSettings _ _ with }
  · exact .kept ⟨rfl, rfl, rfl, rfl, rfl⟩
  · rcases hostAccess_next haccess with ⟨v, rfl⟩ | ⟨w, rfl, hissue⟩
    · exact .kept ⟨rfl, rfl, rfl, rfl, rfl⟩
    · rcases issueCommand_next hissue with ⟨i, hdecode, hexec⟩ | ⟨e, -, rfl⟩
      · exact .command ts bs w i hturns hbus hdecode hexec
      · exact .kept ⟨rfl, rfl, rfl, rfl, rfl⟩

/-- Every writer of these elements, said once for all steps. -/
theorem step_settingsEffect {s t : State} (h : step s = .next t) : SettingsEffect s t := by
  obtain ⟨-, ⟨-, rfl⟩ | ⟨a, ts, hturns, h⟩⟩ := step_next h
  · exact .kept (.refl _)
  cases a with
  | host => exact hostTurn_settingsEffect hturns h
  | sampler => exact .kept { samplerTurn_sameSettings h with }
  | timer => exact .kept { timerTurn_sameSettings h with }
  | gen => exact .kept { genTurn_sameSettings h with }
  | env e => cases h; exact .kept { environment_sameSettings _ e with }
  | reset => exact .reset ts hturns

/-- Settles O46: of the commands only `CONFIG` writes `ACTIVE_LOW`. -/
theorem onlyConfigChangesPolarity : Obligations.OnlyConfigChangesPolarity := by
  intro s t hstep hchanged
  cases step_settingsEffect hstep with
  | kept same => exact absurd same.activeLow hchanged
  | reset ts hturns => exact .inl ⟨ts, hturns⟩
  | captured ts m hturns hphase hok herr same => exact absurd same.activeLow hchanged
  | command ts bs w i hturns hbus hdecode hexec =>
    refine .inr ⟨ts, bs, w, hturns, hbus, ?_⟩
    cases exec_commandEffect hexec with
    | kept same => exact absurd same.activeLow hchanged
    | config a hi same => rw [hdecode, hi, same.activeLow]
    | delete k m hi herr same => exact absurd same.activeLow hchanged
    | load hi herr hactiveLow => exact absurd hactiveLow hchanged

/-- The sizes are among the elements of `SameSettings`. -/
theorem SameSettings.sizes {s t : State} (same : SameSettings s t) :
    ¬ (t.latencyMs ≠ s.latencyMs ∨ t.maxlen ≠ s.maxlen ∨ t.pbCap ≠ s.pbCap) := by
  simp [same.latencyMs, same.maxlen, same.pbCap]

/-- Settles O56: of the commands only `LOAD` writes the three sizes. -/
theorem onlyLoadRecomputesSizes : Obligations.OnlyLoadRecomputesSizes := by
  intro s t hstep hchanged
  cases step_settingsEffect hstep with
  | kept same => exact absurd hchanged same.sizes
  | reset ts hturns => exact .inl ⟨ts, hturns⟩
  | captured ts m hturns hphase hok herr same => exact absurd hchanged same.sizes
  | command ts bs w i hturns hbus hdecode hexec =>
    refine .inr ⟨ts, bs, w, hturns, hbus, ?_⟩
    cases exec_commandEffect hexec with
    | kept same => exact absurd hchanged same.sizes
    | config a hi same => exact absurd hchanged same.sizes
    | delete k m hi herr same => exact absurd hchanged same.sizes
    | load hi herr hactiveLow => rw [hdecode, hi]

/-- Settles O57: every writer of `STORE` but a reset ends without an error. -/
theorem failedOperationsKeepStore : Obligations.FailedOperationsKeepStore := by
  intro s t hstep hfailed hnoreset
  cases step_settingsEffect hstep with
  | kept same => exact same.store
  | reset ts hturns => exact absurd hturns (hnoreset ts)
  | captured ts m hturns hphase hok herr same => exact absurd herr hfailed
  | command ts bs w i hturns hbus hdecode hexec =>
    cases exec_commandEffect hexec with
    | kept same => exact same.store
    | config a hi same => exact same.store
    | delete k m hi herr same => exact absurd herr hfailed
    | load hi herr hactiveLow => exact absurd herr hfailed

/-- Settles O58: a successful capture, `DELETE` and `LOAD` are the writers of `STORE` besides reset. -/
theorem storeWritersRule : Obligations.StoreWritersRule := by
  intro s t hstep hchanged
  cases step_settingsEffect hstep with
  | kept same => exact absurd same.store hchanged
  | reset ts hturns => exact .inl ⟨ts, hturns⟩
  | captured ts m hturns hphase hok herr same => exact .inr ⟨ts, hturns, .inl ⟨hphase, hok⟩⟩
  | command ts bs w i hturns hbus hdecode hexec =>
    refine .inr ⟨ts, hturns, .inr ⟨bs, w, hbus, ?_⟩⟩
    cases exec_commandEffect hexec with
    | kept same => exact absurd same.store hchanged
    | config a hi same => exact absurd same.store hchanged
    | delete k m hi herr same => exact .inl ⟨k, by rw [hdecode, hi]⟩
    | load hi herr hactiveLow => exact .inr (by rw [hdecode, hi])

end Sys2Proof.Machine
end

section
/-! The values after reset (10_state.md R44), and the sampling of a whole timeline (40_capture_edge.md R122). -/

namespace Sys2Proof.Machine

/-- Settles O7: the elements of `State.resetWith` that R44's table gives a value. -/
theorem resetStateValues : Obligations.ResetStateValues := by
  intro c
  refine ⟨State.resetWith c, rfl, ?_⟩
  simp [State.resetWith, CapResult.cleared]

/-- The clock reading `us` microseconds later (R124). -/
def State.clockAfter (s : State) (us : Nat) : Word := BitVec.ofNat 32 ((s.clock.toNat + us) % s.cfg.period)

theorem clockAfter_toNat {s : State} (hvalid : s.cfg.valid = true) (us : Nat) :
    (s.clockAfter us).toNat = (s.clock.toNat + us) % s.cfg.period :=
  clock_toNat hvalid _

/-- `s` after a poll, `us` microseconds later, that finds the pin at another level and leaves the turns `ts`
(R122). -/
def State.afterPoll (s : State) (us : Nat) (level : Bool) (ts : List Turn) : State :=
  { s with
    turns := ts
    clock := s.clockAfter us
    rxLevel := level
    et := s.et.set s.edgeX (s.clockAfter us)
    edgeX := s.edgeX + 1
    lastLevel := level
    crit := if s.edgeX + 1 = s.cfg.nedges then false else s.crit
    capPhase := if s.edgeX + 1 = s.cfg.nedges then .reducing else s.capPhase }

/-- R39, R124: ENV lets `us` microseconds pass. -/
theorem step_of_advanceClock {s : State} {us : Nat} {ts : List Turn} (hvalid : s.cfg.valid = true)
    (hturns : s.turns = .env (.advanceClock us) :: ts) :
    step s = .next { s with turns := ts, clock := s.clockAfter us } :=
  step_of_turn hvalid hturns

/-- R39: ENV drives the capture pin. -/
theorem step_of_driveRx {s : State} {level : Bool} {ts : List Turn} (hvalid : s.cfg.valid = true)
    (hturns : s.turns = .env (.driveRx level) :: ts) :
    step s = .next { s with turns := ts, rxLevel := level } :=
  step_of_turn hvalid hturns

/-- R122: the sampler polls and finds another level, and `ET` has room for the edge. -/
theorem step_of_edge {s : State} {ts : List Turn} (hvalid : s.cfg.valid = true)
    (hturns : s.turns = .sampler :: ts) (hphase : s.capPhase = .sampling) (hroom : s.edgeX < s.et.length)
    (hedge : s.rxLevel ≠ s.lastLevel) :
    step s = .next { s with
      turns := ts
      et := s.et.set s.edgeX s.clock
      edgeX := s.edgeX + 1
      lastLevel := s.rxLevel
      crit := if s.edgeX + 1 = s.cfg.nedges then false else s.crit
      capPhase := if s.edgeX + 1 = s.cfg.nedges then .reducing else s.capPhase } := by
  rw [step_of_turn hvalid hturns]
  simp only [takeTurn, samplerTurn, hphase, samplerStep, recordEdge]
  rw [if_neg hedge, if_pos hroom]

/-- The three turns of a detecting poll: the clock, the pin, the sampler. -/
theorem run_poll {s : State} {us : Nat} {level : Bool} {ts : List Turn} (hvalid : s.cfg.valid = true)
    (hphase : s.capPhase = .sampling) (hroom : s.edgeX < s.et.length) (hedge : level ≠ s.lastLevel)
    (hturns : s.turns = pollTurns (us, level) ++ ts) : run 3 s = .next (s.afterPoll us level ts) := by
  have hclock : step s =
      .next { s with turns := .env (.driveRx level) :: .sampler :: ts, clock := s.clockAfter us } :=
    step_of_advanceClock hvalid hturns
  have hpin :
      step { s with turns := .env (.driveRx level) :: .sampler :: ts, clock := s.clockAfter us } =
      .next { s with turns := .sampler :: ts, clock := s.clockAfter us, rxLevel := level } :=
    step_of_driveRx hvalid rfl
  have hsample :
      step { s with turns := .sampler :: ts, clock := s.clockAfter us, rxLevel := level } =
      .next (s.afterPoll us level ts) :=
    step_of_edge hvalid rfl hphase hroom hedge
  exact (run_succ hclock).trans ((run_succ hpin).trans (run_succ hsample))

/-- R124, R125: after a poll, the timeline so far and the stamps still to come are what they were before it. -/
theorem stamps_afterPoll {s : State} (hvalid : s.cfg.valid = true) (hroom : s.edgeX < s.et.length) (us : Nat)
    (level : Bool) (ts : List Turn) (gaps : List Nat) :
    (s.afterPoll us level ts).et.take (s.edgeX + 1)
        ++ stampsFrom s.cfg.period (s.afterPoll us level ts).clock.toNat gaps =
      s.et.take s.edgeX ++ stampsFrom s.cfg.period s.clock.toNat (us :: gaps) := by
  have hstamps : stampsFrom s.cfg.period (s.afterPoll us level ts).clock.toNat gaps =
      stampsFrom s.cfg.period (s.clock.toNat + us) gaps := by
    rw [State.afterPoll, clockAfter_toNat hvalid]
    exact stampsFrom_mod (Nat.mod_mod _ _) gaps
  rw [hstamps, stampsFrom, State.afterPoll, List.take_add_one, List.take_set_of_le (Nat.le_refl _)]
  simp [hroom, State.clockAfter]

/-- R122, by induction on the polls still to come: with the last one the timeline is full, and sampling and
the critical section have ended. -/
theorem run_polls {polls : List (Nat × Bool)} {s : State} {ts : List Turn} (hvalid : s.cfg.valid = true)
    (hphase : s.capPhase = .sampling) (hlen : s.et.length = s.cfg.nedges)
    (hpolls : s.edgeX + polls.length = s.cfg.nedges) (hsome : polls ≠ [])
    (hedges : alternates s.lastLevel (polls.map Prod.snd) = true)
    (hturns : s.turns = polls.flatMap pollTurns ++ ts) :
    ∃ (level : Bool) (clock : Word), run (3 * polls.length) s = .next { s with
      turns := ts
      et := s.et.take s.edgeX ++ stampsFrom s.cfg.period s.clock.toNat (polls.map Prod.fst)
      edgeX := s.cfg.nedges
      capPhase := .reducing
      crit := false
      lastLevel := level
      rxLevel := level
      clock := clock } := by
  induction polls generalizing s with
  | nil => exact absurd rfl hsome
  | cons p rest ih =>
    obtain ⟨us, level⟩ := p
    simp only [List.map_cons, alternates, Bool.and_eq_true, bne_iff_ne] at hedges
    obtain ⟨hedge, hrest⟩ := hedges
    rw [List.length_cons] at hpolls
    have hroom : s.edgeX < s.et.length := by omega
    have hpoll := run_poll (us := us) (ts := rest.flatMap pollTurns ++ ts) hvalid hphase hroom hedge
      (by simpa using hturns)
    have hstamps := stamps_afterPoll hvalid hroom us level (rest.flatMap pollTurns ++ ts) (rest.map Prod.fst)
    rw [List.length_cons, Nat.mul_succ, Nat.add_comm, run_add hpoll, List.map_cons, ← hstamps]
    cases rest with
    | nil =>
      have hfull : s.edgeX + 1 = s.cfg.nedges := hpolls
      refine ⟨level, s.clockAfter us, ?_⟩
      simp [run_zero, State.afterPoll, stampsFrom, hfull, hlen]
    | cons q more =>
      have hopen : s.edgeX + 1 ≠ s.cfg.nedges := by rw [List.length_cons] at hpolls; omega
      have hnext : s.edgeX + 1 + (q :: more).length = s.cfg.nedges := by omega
      exact ih hvalid ((if_neg hopen).trans hphase) (List.length_set.trans hlen) hnext
        (List.cons_ne_nil q more) hrest rfl

/-- Settles O16: `run_polls` from an empty timeline. -/
theorem samplingFillsTimeline : Obligations.SamplingFillsTimeline := by
  intro s polls ts hvalid hphase hempty hlen hclock hpolls hedges hturns
  have hsome : polls ≠ [] := by
    rintro rfl
    obtain ⟨hnedges, -⟩ := valid_bounds hvalid
    rw [List.length_nil] at hpolls
    omega
  obtain ⟨level, clock, hrun⟩ := run_polls hvalid hphase hlen (by omega) hsome hedges hturns
  refine ⟨level, clock, ?_⟩
  rw [← hpolls, hrun, hempty, hpolls]
  rfl

end Sys2Proof.Machine
end

section
/-! No access leaves its space (20_memory.md R63). -/

namespace Sys2Proof.Machine

/-- The part of a step that answers `r` makes no access outside its space (R63). -/
def NoFault (r : Result) : Prop := ∀ f, r ≠ .fault f

theorem noFault_next (t : State) : NoFault (.next t) := fun _ => nofun

theorem noFault_refused (why : Refusal) : NoFault (.refused why) := fun _ => nofun

/-! The shared guards and combinators. -/

theorem whenFree_noFault {s : State} {r : Result} (hr : NoFault r) : NoFault (whenFree s r) := by
  rcases whenFree_cases s r with ⟨-, heq⟩ | ⟨-, heq⟩ <;> rw [heq]
  · exact hr
  · exact noFault_refused _

theorem whenQuiet_noFault {s : State} {r : Result} (hr : NoFault r) : NoFault (whenQuiet s r) := by
  rcases whenQuiet_cases s r with ⟨-, -, heq⟩ | ⟨-, -, heq⟩ | ⟨-, heq⟩ <;> rw [heq]
  · exact hr
  · exact noFault_refused _
  · exact noFault_refused _

theorem withCode_noFault {k : Nat} {s : State} {f : Code → Result} (hf : ∀ c, NoFault (f c)) :
    NoFault (withCode k s f) := by
  rcases withCode_cases k s f with ⟨-, heq⟩ | ⟨c, -, heq⟩ <;> rw [heq]
  · exact noFault_next _
  · exact hf c

theorem andThen_noFault {o : Result} {f : State → Result} (ho : NoFault o) (hf : ∀ t, NoFault (f t)) :
    NoFault (andThen o f) := by
  cases o with
  | next t => exact hf t
  | fault r => exact absurd rfl (ho r)
  | refused why => exact noFault_refused why

/-! The operations that index a space: what keeps each index inside. -/

/-- R122: `ET` has room for the edge. -/
theorem recordEdge_noFault {s : State} (hroom : s.edgeX < s.et.length) : NoFault (recordEdge s) := by
  rw [recordEdge, if_pos hroom]
  exact noFault_next _

/-- R141: `ET` has all the elements that the reduction reads. -/
theorem finishCapture_noFault {s : State} (hfull : s.cfg.nedges ≤ s.et.length) :
    NoFault (finishCapture s) := by
  rw [finishCapture, if_pos hfull]
  split
  · exact noFault_next _
  · exact noFault_refused _

/-- R172: `PB` has the `PB_CAP` elements that the length check counts on. -/
theorem buildBuffer_noFault {c : Code} {s : State} (hsize : s.pb.length = s.pbCap) :
    NoFault (buildBuffer c s) := by
  unfold buildBuffer
  split
  case isTrue hfits =>
    split
    · rw [if_pos (hfits.trans_eq hsize.symm)]
      exact noFault_next _
    · exact noFault_refused _
  case isFalse => exact noFault_refused _

/-- R192: `PB` has an element at `INDEX`. -/
theorem timerTurn_noFault {s : State} (hindex : s.index < s.pb.length) : NoFault (timerTurn s) := by
  have hread : s.enterCallback.pb[s.enterCallback.index]? = some s.pb[s.index] :=
    List.getElem?_eq_getElem hindex
  unfold timerTurn timerFire
  rw [hread]
  split
  · exact noFault_next _
  · exact noFault_next _

/-- R201: a running generator has an element at `GEN_POS`. -/
theorem genTurn_noFault {s : State} (hpos : s.genRunning = true → s.genPos < s.genWave.length) :
    NoFault (genTurn s) := by
  unfold genTurn
  split
  case isTrue hrun =>
    rw [List.getElem?_eq_getElem (hpos hrun)]
    exact noFault_next _
  case isFalse => exact noFault_next _

/-! The commands, the turns, the step. -/

/-- R201, R45: a generator with a sentinel at or above `GEN_POS` is inside its waveform. -/
theorem genPos_lt {s : State} (hi : Inv s) (hrun : s.genRunning = true) : s.genPos < s.genWave.length := by
  obtain ⟨-, -, hahead⟩ := hi.generator hrun
  have hleft := List.length_pos_of_mem hahead
  rw [List.length_drop] at hleft
  omega

/-- Of the ten commands only `TXNB` indexes a space, in its buffer build. -/
theorem exec_noFault {i : Instr} {s : State} (hsize : s.pb.length = s.pbCap) : NoFault (exec i s) := by
  cases i with
  | capture k => exact whenQuiet_noFault (noFault_next _)
  | txnb k =>
    exact whenQuiet_noFault (withCode_noFault fun c =>
      andThen_noFault (buildBuffer_noFault hsize) fun t => noFault_next _)
  | txb k =>
    refine whenQuiet_noFault (withCode_noFault fun c => ?_)
    split
    · exact noFault_next _
    · exact noFault_refused _
  | latency => exact whenFree_noFault (noFault_next _)
  | config a =>
    refine whenQuiet_noFault ?_
    split <;> exact noFault_next _
  | delete k => exact whenFree_noFault (withCode_noFault fun c => noFault_next _)
  | keys => exact whenFree_noFault (noFault_next _)
  | inspect k => exact whenFree_noFault (withCode_noFault fun c => noFault_next _)
  | load =>
    refine whenQuiet_noFault ?_
    split <;> exact noFault_next _
  | save =>
    refine whenFree_noFault ?_
    split <;> exact noFault_next _

theorem issueCommand_noFault {w : Word} {s : State} (hsize : s.pb.length = s.pbCap) :
    NoFault (issueCommand w s) := by
  unfold issueCommand
  split
  · exact exec_noFault hsize
  · exact noFault_next _

theorem readRegister_noFault (r : Reg) (s : State) : NoFault (readRegister r s) := by
  unfold readRegister
  split
  · split
    · exact noFault_next _
    · exact noFault_refused _
  · exact noFault_refused _

theorem writeRegister_noFault {r : Reg} {w : Word} {s : State} (hsize : s.pb.length = s.pbCap) :
    NoFault (writeRegister r w s) := by
  unfold writeRegister
  split
  · exact issueCommand_noFault hsize
  · exact noFault_refused _

theorem hostAccess_noFault {a : HostAccess} {s : State} (hsize : s.pb.length = s.pbCap) :
    NoFault (hostAccess a s) := by
  cases a with
  | write addr bytes w =>
    simp only [hostAccess]
    split
    · exact writeRegister_noFault hsize
    · exact noFault_refused _
  | read addr bytes =>
    simp only [hostAccess]
    split
    · exact readRegister_noFault _ _
    · exact noFault_refused _

theorem hostTurn_noFault {s : State} (hi : Inv s) : NoFault (hostTurn s) := by
  unfold hostTurn
  split
  · exact noFault_next _
  · exact finishCapture_noFault hi.etLength.ge
  · split
    · exact noFault_next _
    · unfold nextAccess
      split
      · exact noFault_next _
      · exact hostAccess_noFault hi.pbLength

theorem samplerTurn_noFault {s : State} (hi : Inv s) : NoFault (samplerTurn s) := by
  unfold samplerTurn samplerStep
  split
  case h_1 hsampling =>
    split
    · exact noFault_next _
    · exact recordEdge_noFault ((hi.samplingRoom hsampling).trans_eq hi.etLength.symm)
  · exact noFault_next _
  · exact noFault_next _

theorem takeTurn_noFault {a : Turn} {s : State} (hi : Inv s) : NoFault (takeTurn a s) := by
  cases a with
  | host => exact hostTurn_noFault hi
  | sampler => exact samplerTurn_noFault hi
  | timer => exact timerTurn_noFault (hi.indexRange.trans_eq hi.pbLength.symm)
  | gen => exact genTurn_noFault (genPos_lt hi)
  | env e => exact noFault_next _
  | reset => exact noFault_next _

/-- Settles O11: no agent's turn indexes outside its space. -/
theorem invariantRulesOutFaults : Obligations.InvariantRulesOutFaults := by
  intro s hi
  rw [step_of_valid hi.valid]
  unfold nextTurn
  split
  · exact noFault_next _
  · have hturns (ts : List Turn) : Inv { s with turns := ts } := { hi with }
    exact takeTurn_noFault (hturns _)

end Sys2Proof.Machine
end

section
/-! Accesses the register window does not give (20_memory.md R63, 30_encoding.md R102). -/

namespace Sys2Proof.Machine

/-- R102: the listed offsets are the multiples of 4 up to 0x30. -/
theorem regAt_isSome {off : Nat} : (regAt off).isSome = true ↔ off % 4 = 0 ∧ off ≤ 0x30 := by
  unfold regAt
  split
  case h_14 =>
    simp only [imp_false] at *
    exact iff_of_false nofun (by omega)
  all_goals decide

/-- R102: `CMD` is the register at offset 0. -/
theorem offset_of_regAt_cmd {off : Nat} (h : regAt off = some .cmd) : off = 0 := by
  unfold regAt at h
  split at h
  case h_1 => rfl
  all_goals cases h

/-- R102: a whole word at an offset in the window. -/
theorem accessedReg_of_word (cfg : Config) (off : Nat) :
    accessedReg cfg (cfg.mrcBase + off) 4 = regAt off := by
  rw [accessedReg, if_pos rfl, if_pos (Nat.le_add_right _ _), Nat.add_sub_cancel_left]

/-- R63: part of a word, or a word at an address that is not listed. -/
theorem accessedReg_eq_none {cfg : Config} {addr bytes : Nat}
    (h : bytes ≠ 4 ∨ addr < cfg.mrcBase ∨ (addr - cfg.mrcBase) % 4 ≠ 0 ∨ cfg.mrcBase + 0x30 < addr) :
    accessedReg cfg addr bytes = none := by
  unfold accessedReg
  split
  case isTrue hword =>
    split
    case isTrue hbase =>
      rw [← Option.not_isSome_iff_eq_none, regAt_isSome]
      omega
    case isFalse => rfl
  case isFalse => rfl

/-- R102: only `CMD` takes a write. -/
theorem writeRegister_of_ne_cmd {r : Reg} {w : Word} {s : State} (h : r ≠ .cmd) :
    writeRegister r w s = .refused .writeToReadOnly := by
  unfold writeRegister
  split
  · exact absurd rfl h
  · rfl

theorem hostAccess_write_readOnly {s : State} {off : Nat} {w : Word} (haligned : off % 4 = 0)
    (hlow : 0x04 ≤ off) (hhigh : off ≤ 0x30) :
    hostAccess (.write (s.cfg.mrcBase + off) 4 w) s = .refused .writeToReadOnly := by
  obtain ⟨r, hr⟩ := Option.isSome_iff_exists.1 (regAt_isSome.2 ⟨haligned, hhigh⟩)
  have hne : r ≠ .cmd := by
    rintro rfl
    have hzero := offset_of_regAt_cmd hr
    omega
  simp only [hostAccess, accessedReg_of_word, hr, writeRegister_of_ne_cmd hne]

theorem hostAccess_read_cmd (s : State) :
    hostAccess (.read s.cfg.mrcBase 4) s = .refused .readOfCmd := by
  have hcmd : accessedReg s.cfg s.cfg.mrcBase 4 = some .cmd := accessedReg_of_word s.cfg 0
  simp only [hostAccess, hcmd]
  rfl

theorem hostAccess_of_none {s : State} {a : HostAccess} {addr bytes : Nat} {w : Word}
    (ha : a = .write addr bytes w ∨ a = .read addr bytes) (h : accessedReg s.cfg addr bytes = none) :
    hostAccess a s = .refused .badRegisterAccess := by
  rcases ha with rfl | rfl <;> simp only [hostAccess, h]

/-- Settles O60: the refusals of a register access, at a free host's turn. -/
theorem badAccessesAreRefused : Obligations.BadAccessesAreRefused := by
  intro s ts bs a hvalid hfree hturns hbus
  rw [step_of_access hvalid hfree hturns hbus]
  refine ⟨?_, ?_, ?_⟩
  · rintro off w rfl haligned hlow hhigh
    exact hostAccess_write_readOnly haligned hlow hhigh
  · rintro rfl
    exact hostAccess_read_cmd _
  · intro addr bytes w ha hbad
    exact hostAccess_of_none ha (accessedReg_eq_none hbad)

end Sys2Proof.Machine
end

section
/-! `TXB` from its command to its return (20_memory.md R64, 43_playback_timer.md R204, R205). -/

namespace Sys2Proof.Machine

/-- R30: the waveform starts with a mark. -/
theorem levelOf_zero (activeLow : Bool) : levelOf activeLow 0 = !activeLow := Bool.true_xor activeLow

theorem exec_txb_of_fits {k : Nat} {s : State} {c : Code} (hfree : s.hostFree = true)
    (hquiet : s.running = false) (hc : storeLookup k s.store = some c) (hfits : ∀ e ∈ c, e < 2 ^ 32) :
    exec (.txb k) s = .next (txbStep ⟨c, 0⟩ { s with crit := true }) :=
  execTxb_of_fits hfree hquiet hc (fitsU32_iff.2 hfits)

/-- Settles O40: by the first position of the repeated code, if it has one. -/
theorem txbEntersCriticalSection : Obligations.TxbEntersCriticalSection := by
  intro s k c hvalid hfree hquiet hc hfits
  rw [exec_txb_of_fits hfree hquiet hc hfits]
  refine ⟨?_, ?_⟩
  · rintro d r rfl
    obtain ⟨-, -, hreps, -⟩ := valid_bounds hvalid
    have hfirst : 0 < s.cfg.reps * (d :: r).length := Nat.mul_pos hreps (Nat.succ_pos _)
    rw [txbStep_of_lt hfirst, levelOf_zero, Nat.zero_mod]
    rfl
  · rintro rfl
    obtain ⟨-, htxb⟩ := hostFree_iff.1 hfree
    rw [txbStep_of_ge (Nat.le_refl _), finishTxb, ← htxb]
    rfl

/-- R64: the host's turn at the end of a sleep. -/
theorem step_of_sleep {s : State} {r : TxbRun} {ts : List Turn} (hvalid : s.cfg.valid = true)
    (hphase : s.capPhase = .idle) (htxb : s.txb = some r) (hturns : s.turns = .host :: ts) :
    step s = .next (txbStep r { s with turns := ts }) := by
  rw [step_of_turn hvalid hturns]
  simp only [takeTurn, hostTurn, hphase, htxb]

/-- R204: the loop's next pulse, and the host's turn at the end of its sleep. -/
theorem step_of_txbStep {s : State} {r : TxbRun} {ts : List Turn} (hvalid : s.cfg.valid = true)
    (hphase : s.capPhase = .idle) (hlt : r.pos < s.cfg.reps * r.code.length)
    (hturns : s.turns = .host :: ts) :
    step (txbStep r s) = .next (txbStep ⟨r.code, r.pos + 1⟩
      { s.pinWrite (levelOf s.activeLow r.pos) (some (r.code.getD (r.pos % r.code.length) 0)) with
        txb := some ⟨r.code, r.pos + 1⟩
        turns := ts }) := by
  rw [txbStep_of_lt hlt]
  exact step_of_sleep hvalid hphase rfl hturns

/-- R204: what the loop reads at a position before the last one. -/
theorem repeatCode_position {n j d : Nat} {code : Code} {b : List Nat}
    (h : (repeatCode n code).drop j = d :: b) :
    j < n * code.length ∧ code.getD (j % code.length) 0 = d ∧ (repeatCode n code).drop (j + 1) = b := by
  have hread : (repeatCode n code)[j]? = some d := by rw [← List.head?_drop, h, List.head?_cons]
  have hlt : j < n * code.length := by
    rw [← repeatCode_length]
    exact (List.getElem?_eq_some_iff.1 hread).1
  have hcode : code[j % code.length]? = some d := (repeatCode_getElem? hlt).symm.trans hread
  refine ⟨hlt, ?_, ?_⟩
  · rw [List.getD_eq_getElem?_getD, hcode, Option.getD_some]
  · rw [← List.tail_drop, h, List.tail_cons]

/-- R204 from the loop position `r.pos` to the return, by induction on the pulses `b` still to come: each
is followed by one sleep, which a host turn ends. -/
theorem run_txbStep {b : List Nat} {r : TxbRun} {s : State} {ts : List Turn} (hvalid : s.cfg.valid = true)
    (hphase : s.capPhase = .idle) (hb : (repeatCode s.cfg.reps r.code).drop r.pos = b)
    (hturns : s.turns = List.replicate b.length .host ++ ts) :
    run b.length (txbStep r s) = .next { s with
      turns := ts
      crit := false
      txb := none
      err := .none
      ret := .done
      txPin := s.activeLow
      pinLog := s.pinLog ++ pulsesFrom s.activeLow r.pos b ++ [idleEvent s.activeLow] } := by
  induction b generalizing r s with
  | nil =>
    have hend : s.cfg.reps * r.code.length ≤ r.pos := by
      rw [← repeatCode_length]
      exact List.drop_eq_nil_iff.1 hb
    have hts : s.turns = ts := hturns
    rw [txbStep_of_ge hend, ← hts, pulsesFrom, List.append_nil]
    rfl
  | cons d b ih =>
    obtain ⟨hlt, hread, hrest⟩ := repeatCode_position hb
    have hlog : s.pinLog ++ pulsesFrom s.activeLow r.pos (d :: b) =
        s.pinLog ++ [⟨levelOf s.activeLow r.pos, some d⟩] ++ pulsesFrom s.activeLow (r.pos + 1) b := by
      rw [pulsesFrom, List.append_assoc, List.singleton_append]
    rw [List.length_cons, run_succ (step_of_txbStep hvalid hphase hlt hturns), hread, hlog]
    exact ih hvalid hphase hrest rfl

/-- Settles O41: the whole loop, from the position at which the command enters it. -/
theorem blockingTransmitWaveform : Obligations.BlockingTransmitWaveform := by
  intro s k c ts hvalid hfree hquiet hc hfits hturns
  obtain ⟨hphase, htxb⟩ := hostFree_iff.1 hfree
  rw [← repeatCode_length] at hturns ⊢
  have hrun := run_txbStep (r := ⟨c, 0⟩) (s := { s with crit := true }) hvalid hphase rfl hturns
  rw [exec_txb_of_fits hfree hquiet hc hfits]
  rw [← htxb] at hrun
  exact hrun

end Sys2Proof.Machine
end

section
/-! The command word: what decodes, and to what (30_encoding.md R100, R101, R107). -/

namespace Sys2Proof

/-- R101: the only operand with a condition is the argument, which must fit its 24 bits. -/
theorem wf_iff_argument_lt {i : Instr} : i.wf = true ↔ argument i < 2 ^ 24 := by
  cases i with
  | capture k | txnb k | txb k | delete k | inspect k => exact decide_eq_true_iff
  | latency | keys | load | save => exact iff_of_true rfl (by decide)
  | config a => exact iff_of_true rfl (lt_of_le_of_lt (Bool.toNat_le a) (by decide))

theorem argField_lt (w : Word) : argField w < 2 ^ 24 := Nat.mod_lt _ (by decide)

/-- R100: a word is its two fields, side by side. -/
theorem ofNat_fields (w : Word) : BitVec.ofNat 32 (opField w * 2 ^ 24 + argField w) = w := by
  rw [opField, argField, Nat.div_add_mod', BitVec.ofNat_toNat, BitVec.setWidth_eq]

theorem decodeNullary_eq_ok_iff {i j : Instr} {arg : Nat} :
    decodeNullary j arg = .ok i ↔ j = i ∧ arg = 0 := by
  unfold decodeNullary
  split <;> simp_all

theorem decodeConfig_eq_ok_iff {i : Instr} {arg : Nat} :
    decodeConfig arg = .ok i ↔ ∃ a : Bool, .config a = i ∧ arg = a.toNat := by
  unfold decodeConfig
  split
  case isTrue h =>
    have hbit : arg = (arg % 2 == 1).toNat := by
      have hcases : arg = 0 ∨ arg = 1 := by omega
      rcases hcases with rfl | rfl <;> rfl
    constructor
    · intro hok
      exact ⟨_, Except.ok.inj hok, hbit⟩
    · rintro ⟨a, rfl, rfl⟩
      cases a <;> rfl
  case isFalse h =>
    refine iff_of_false nofun ?_
    rintro ⟨a, -, rfl⟩
    have hle := Bool.toNat_le a
    omega

/-- R101: a word decodes to exactly the command that has its fields as operation code and argument. -/
theorem decode_eq_ok_iff {w : Word} {i : Instr} :
    decode w = .ok i ↔ opcode i = opField w ∧ argument i = argField w := by
  constructor
  · intro h
    unfold decode at h
    split at h
    case h_4 hop | h_7 hop | h_9 hop | h_10 hop =>
      obtain ⟨rfl, harg⟩ := decodeNullary_eq_ok_iff.1 h
      exact ⟨hop.symm, harg.symm⟩
    case h_5 hop =>
      obtain ⟨a, rfl, harg⟩ := decodeConfig_eq_ok_iff.1 h
      exact ⟨hop.symm, harg.symm⟩
    case h_11 => cases h
    all_goals
      rename_i hop
      cases h
      exact ⟨hop.symm, rfl⟩
  · rintro ⟨hop, harg⟩
    unfold decode
    rw [← hop, ← harg]
    cases i with
    | config a => exact decodeConfig_eq_ok_iff.2 ⟨a, rfl, rfl⟩
    | _ => rfl

/-- Settles O1: the encoding of a well-formed command has its operation code and argument as fields. -/
theorem decodeOfEncodeIsIdentity : Obligations.DecodeOfEncodeIsIdentity := by
  intro i hwf
  obtain ⟨hop, harg⟩ := Laws.EncodeOp.fields (Laws.EncodeOp.opcode_lt i) (wf_iff_argument_lt.1 hwf)
  exact decode_eq_ok_iff.2 ⟨hop.symm, harg.symm⟩

/-- Settles O2: the command has the word's fields, and the fields make up the word. -/
theorem decodedWordIsItsEncoding : Obligations.DecodedWordIsItsEncoding := by
  intro w i hdecode
  obtain ⟨hop, harg⟩ := decode_eq_ok_iff.1 hdecode
  refine ⟨?_, ?_⟩
  · rw [wf_iff_argument_lt, harg]
    exact argField_lt w
  · rw [encode, hop, harg, ofNat_fields]

/-! R107 (a). -/

/-- R107 (a): the fields that no command has. -/
def ReservedFields (op arg : Nat) : Prop :=
  op = 0x00 ∨ 0x0B ≤ op ∨
    ((op = 0x04 ∨ op = 0x07 ∨ op = 0x09 ∨ op = 0x0A) ∧ arg ≠ 0) ∨ (op = 0x05 ∧ arg / 2 ≠ 0)

theorem not_reservedFields (i : Instr) : ¬ ReservedFields (opcode i) (argument i) := by
  cases i with
  | config a => cases a <;> simp [ReservedFields, opcode, argument]
  | _ => simp [ReservedFields, opcode, argument]

/-- R101: the fields that are not reserved are those of some command, one for each operation code. -/
theorem exists_instr_of_not_reservedFields {op arg : Nat} (h : ¬ ReservedFields op arg) :
    ∃ i, opcode i = op ∧ argument i = arg := by
  simp only [ReservedFields, not_or, not_and, not_not] at h
  obtain ⟨hzero, hlarge, hnullary, hconfig⟩ := h
  have hlow : 1 ≤ op := Nat.one_le_iff_ne_zero.2 hzero
  have hhigh : op ≤ 0x0A := Nat.lt_succ_iff.1 (Nat.lt_of_not_le hlarge)
  interval_cases op
  · exact ⟨.capture arg, rfl, rfl⟩
  · exact ⟨.txnb arg, rfl, rfl⟩
  · exact ⟨.txb arg, rfl, rfl⟩
  · exact ⟨.latency, rfl, (hnullary (by decide)).symm⟩
  · obtain ⟨a, -, harg⟩ := decodeConfig_eq_ok_iff.1 (if_pos (hconfig rfl))
    exact ⟨.config a, rfl, harg.symm⟩
  · exact ⟨.delete arg, rfl, rfl⟩
  · exact ⟨.keys, rfl, (hnullary (by decide)).symm⟩
  · exact ⟨.inspect arg, rfl, rfl⟩
  · exact ⟨.load, rfl, (hnullary (by decide)).symm⟩
  · exact ⟨.save, rfl, (hnullary (by decide)).symm⟩

theorem decode_ne_ok_iff {w : Word} :
    (∀ i, decode w ≠ .ok i) ↔ ReservedFields (opField w) (argField w) := by
  constructor
  · intro hnone
    by_contra hlegal
    obtain ⟨i, hop, harg⟩ := exists_instr_of_not_reservedFields hlegal
    exact hnone i (decode_eq_ok_iff.2 ⟨hop, harg⟩)
  · intro hreserved i hdecode
    obtain ⟨hop, harg⟩ := decode_eq_ok_iff.1 hdecode
    rw [← hop, ← harg] at hreserved
    exact not_reservedFields i hreserved

/-! The fields as bit slices of the word (R100). -/

theorem toNat_op_bits (w : Word) : (w.extractLsb' 24 8).toNat = opField w := by
  have hlt := w.isLt
  rw [BitVec.extractLsb'_toNat, Nat.shiftRight_eq_div_pow, opField]
  omega

theorem toNat_arg_bits (w : Word) : (w.extractLsb' 0 24).toNat = argField w := by
  rw [BitVec.extractLsb'_toNat, Nat.shiftRight_zero, argField]

theorem toNat_config_reserved_bits (w : Word) : (w.extractLsb' 1 23).toNat = argField w / 2 := by
  rw [BitVec.extractLsb'_toNat, Nat.shiftRight_eq_div_pow, argField]
  omega

/-- Settles O3: the statement's bit slices are the fields of `ReservedFields`. -/
theorem illegalWordsAreTheReservedOnes : Obligations.IllegalWordsAreTheReservedOnes := by
  intro w
  simp only [ne_eq, ← BitVec.toNat_inj, BitVec.le_def, toNat_op_bits, toNat_arg_bits,
    toNat_config_reserved_bits]
  exact decode_ne_ok_iff

/-- Settles O4: sixteen closed words, decoded one by one. -/
theorem sampleWordsDecode : Obligations.SampleWordsDecode := by
  unfold Obligations.SampleWordsDecode
  decide

end Sys2Proof
end

section
/-! Accesses the register window gives: the write to `CMD` and the reads (30_encoding.md R100, R102 to
R105). -/

namespace Sys2Proof.Machine

/-- R100, R102: a whole word written to `CMD` is issued. -/
theorem hostAccess_write_cmd (w : Word) (s : State) :
    hostAccess (.write s.cfg.mrcBase 4 w) s = issueCommand w s := by
  have hcmd : accessedReg s.cfg s.cfg.mrcBase 4 = some .cmd := accessedReg_of_word s.cfg 0
  simp only [hostAccess, hcmd, writeRegister]

theorem issueCommand_of_decode {w : Word} {i : Instr} (h : decode w = .ok i) (s : State) :
    issueCommand w s = exec i s := by
  simp only [issueCommand, h]

/-- Settles O5: the host's access is the write to `CMD`, and the word is issued. -/
theorem stepRunsDecodedCommand : Obligations.StepRunsDecodedCommand := by
  intro s w i ts bs hvalid hfree hturns hbus hdecode
  calc step s
      = hostAccess (.write s.cfg.mrcBase 4 w) { s with turns := ts, bus := bs } :=
        step_of_access hvalid hfree hturns hbus
    _ = issueCommand w { s with turns := ts, bus := bs } :=
        hostAccess_write_cmd w { s with turns := ts, bus := bs }
    _ = exec i { s with turns := ts, bus := bs } := issueCommand_of_decode hdecode _

/-- R102: a whole word read at the offset of a readable register. -/
theorem hostAccess_read_of_value {s : State} {off v : Nat} {r : Reg} (hr : regAt off = some r)
    (hv : s.regValue r = some v) :
    hostAccess (.read (s.cfg.mrcBase + off) 4) s =
      if v < 2 ^ 32 then .next { s with rdata := BitVec.ofNat 32 v } else .refused .registerTooWide := by
  simp only [hostAccess, accessedReg_of_word, hr, readRegister, hv]

/-- The value of one bit of a register, at the bit's weight. -/
theorem weight_mul_toNat (n : Nat) (b : Bool) : n * b.toNat = if b = true then n else 0 := by
  cases b <;> simp

/-- R40, R103: `STATUS`, bit by bit. -/
theorem statusWord_eq (s : State) : s.statusWord =
    (if s.pstate = .running ∨ s.genRunning = true then 1 else 0)
      + (if s.capPhase ≠ .idle then 2 else 0) + (if s.capResult.ok = true then 4 else 0)
      + (if s.activeLow = true then 8 else 0) + (if s.timerArmed = true then 16 else 0)
      + (if s.crit = true then 32 else 0) := by
  rw [State.statusWord, ← Nat.one_mul s.running.toNat]
  simp only [weight_mul_toNat, State.running, State.capBusy, Bool.or_eq_true, beq_iff_eq, bne_iff_ne]

theorem Strategy.bit_eq (x : Strategy) : Strategy.bit x = if x = .generator then 1 else 0 := by
  cases x <;> rfl

/-- R104: `CFG`, bit by bit. -/
theorem cfgWord_eq (s : State) : s.cfgWord =
    (if s.activeLow = true then 1 else 0) + (if s.cfg.strategy = .generator then 2 else 0)
      + (if s.cfg.genNativeLoop = true then 4 else 0) + (if s.cfg.genActiveLowOk = true then 8 else 0) := by
  rw [State.cfgWord, ← Nat.one_mul s.activeLow.toNat]
  simp only [weight_mul_toNat, Strategy.bit_eq, mul_ite, Nat.mul_one, Nat.mul_zero]

/-- Settles O59: each offset of the table is a register's, and the table's value is what it shows. -/
theorem registerReadRule : Obligations.RegisterReadRule := by
  intro s ts bs off v hvalid hfree hturns hbus hmem
  have hreg : ∃ r, regAt off = some r ∧ s.regValue r = some v := by
    simp only [List.mem_cons, List.not_mem_nil, or_false, Prod.mk.injEq] at hmem
    rcases hmem with ⟨rfl, hv⟩ | ⟨rfl, hv⟩ | ⟨rfl, hv⟩ | ⟨rfl, rfl⟩ | ⟨rfl, rfl⟩ | ⟨rfl, rfl⟩ |
      ⟨rfl, rfl⟩ | ⟨rfl, rfl⟩ | ⟨rfl, rfl⟩ | ⟨rfl, rfl⟩ | ⟨rfl, rfl⟩ | ⟨rfl, rfl⟩
    · exact ⟨.status, rfl, congrArg some ((statusWord_eq s).trans hv.symm)⟩
    · refine ⟨.err, rfl, congrArg some (Eq.trans ?_ hv.symm)⟩
      cases s.err <;> rfl
    · exact ⟨.cfg, rfl, congrArg some ((cfgWord_eq s).trans hv.symm)⟩
    all_goals exact ⟨_, rfl, rfl⟩
  obtain ⟨r, hr, hv⟩ := hreg
  rw [step_of_access hvalid hfree hturns hbus]
  exact hostAccess_read_of_value (s := { s with turns := ts, bus := bs }) hr hv

end Sys2Proof.Machine
end

section
/-! The clock difference (40_capture_edge.md R124, R125). -/

namespace Sys2Proof.Machine

/-- R124: over an even modulus, `Diff` is the remainder balanced about 0. -/
theorem diff_eq_bmod {half : Nat} (hpos : 0 < half) (a b : Word) :
    diff (2 * half) a b = ((a.toNat : Int) - b.toNat).bmod (2 * half) := by
  have hlow := Int.emod_nonneg ((a.toNat : Int) - b.toNat + half) (b := (2 * half : Nat)) (by omega)
  have hhigh := Int.emod_lt_of_pos ((a.toNat : Int) - b.toNat + half) (b := (2 * half : Nat)) (by omega)
  have hdvd := Int.dvd_emod_sub_self (x := (a.toNat : Int) - b.toNat + half) (m := 2 * half)
  rw [diff, Nat.mul_div_cancel_left half Nat.two_pos, eq_comm, Int.bmod_eq_iff (Nat.mul_pos Nat.two_pos hpos)]
  refine ⟨by omega, by omega, ?_⟩
  rwa [sub_sub, add_comm (half : Int)]

/-- R124: a timestamp fits the word that holds it, as the modulus does not exceed `2^32`. -/
theorem stamp_toNat {period : Nat} (hpos : 0 < period) (hword : period ≤ 2 ^ 32) (t : Nat) :
    (BitVec.ofNat 32 (t % period)).toNat = t % period := by
  rw [BitVec.toNat_ofNat]
  exact Nat.mod_eq_of_lt ((Nat.mod_lt t hpos).trans_le hword)

/-- R125: `Diff` of two timestamps depends only on the true time between them. -/
theorem diff_stamps {half : Nat} (hpos : 0 < half) (hword : 2 * half ≤ 2 ^ 32) (t u : Nat) :
    diff (2 * half) (BitVec.ofNat 32 (u % (2 * half))) (BitVec.ofNat 32 (t % (2 * half))) =
      ((u : Int) - t).bmod (2 * half) := by
  have hperiod : 0 < 2 * half := Nat.mul_pos Nat.two_pos hpos
  rw [diff_eq_bmod hpos, stamp_toNat hperiod hword, stamp_toNat hperiod hword, Int.natCast_mod,
    Int.natCast_mod, Int.emod_sub_bmod, Int.sub_emod_bmod]

/-- R125: the balanced remainder of a time is negative where the time exceeds its last whole period by half a
period or more. -/
theorem bmod_neg_of_half_le_mod {half x : Nat} (hpos : 0 < half) (h : half ≤ x % (2 * half)) :
    (x : Int).bmod (2 * half) < 0 := by
  have hlt : x % (2 * half) < 2 * half := Nat.mod_lt x (Nat.mul_pos Nat.two_pos hpos)
  rw [← Int.emod_bmod, ← Int.natCast_mod, Int.bmod_neg_iff (by omega) (by omega)]
  omega

/-- Settles O17: `Diff` of the stamps is a balanced remainder, and the four claims are about that. -/
theorem diffIsExactBelowHalfPeriod : Obligations.DiffIsExactBelowHalfPeriod := by
  rintro p t u hlow hp hle d rfl
  have hperiod : 2 ^ p = 2 * 2 ^ (p - 1) := (mul_pow_sub_one (by omega) 2).symm
  have hcast : (2 : Int) ^ (p - 1) = (2 ^ (p - 1) : Nat) := (Nat.cast_pow 2 (p - 1)).symm
  have hpos : 0 < 2 ^ (p - 1) := Nat.two_pow_pos _
  have hword : 2 * 2 ^ (p - 1) ≤ 2 ^ 32 := hperiod.symm.trans_le (Nat.pow_le_pow_right Nat.two_pos hp)
  rw [hperiod, diff_stamps hpos hword, hcast, ← Nat.cast_sub hle]
  generalize 2 ^ (p - 1) = half at hpos
  have hmin := Int.le_bmod (x := (u - t : Nat)) (Nat.mul_pos Nat.two_pos hpos)
  have hmax := Int.bmod_lt (x := (u - t : Nat)) (Nat.mul_pos Nat.two_pos hpos)
  refine ⟨⟨by omega, by omega, Int.dvd_bmod_sub_self⟩, fun hnear => ?_, fun hfar => ?_, fun hneg => ?_⟩
  · exact Int.bmod_eq_of_le (by omega) (by omega)
  · omega
  · exact bmod_neg_of_half_le_mod hpos hneg

end Sys2Proof.Machine
end

section
/-! The start, the polls and the refusal of a capture (40_capture_edge.md R120, R122, R126). -/

namespace Sys2Proof.Machine

/-- Settles O13: `CAPTURE` is under both guards, and they let it through. -/
theorem captureStartsSampling : Obligations.CaptureStartsSampling := by
  intro s k hfree hquiet
  rw [exec, execCapture, whenQuiet_of_quiet hfree hquiet]

/-- R122: the sampler polls and finds the level it remembers. -/
theorem step_of_no_edge {s : State} {ts : List Turn} (hvalid : s.cfg.valid = true)
    (hturns : s.turns = .sampler :: ts) (hphase : s.capPhase = .sampling) (hlevel : s.rxLevel = s.lastLevel) :
    step s = .next { s with turns := ts } := by
  rw [step_of_turn hvalid hturns]
  simp only [takeTurn, samplerTurn, hphase, samplerStep]
  rw [if_pos hlevel]

/-- Settles O14: no edge, or an edge, which is the last one or not. -/
theorem samplerStepRule : Obligations.SamplerStepRule := by
  intro s ts hvalid hturns hphase hlen hroom
  by_cases hlevel : s.rxLevel = s.lastLevel
  · rw [if_pos hlevel]
    exact step_of_no_edge hvalid hturns hphase hlevel
  · rw [if_neg hlevel, step_of_edge hvalid hturns hphase (hroom.trans_eq hlen.symm) hlevel]
    by_cases hlast : s.edgeX + 1 = s.cfg.nedges
    · simp only [if_pos hlast]
      rw [hlast]
    · simp only [if_neg hlast]

/-- R126, R140: the reduction refuses timestamps with a negative delivered gap. -/
theorem finishCapture_of_negative {s : State} (hfull : s.cfg.nedges ≤ s.et.length) {g : Int}
    (hmem : g ∈ deliveredGaps s.cfg.period s.cfg.nedges s.et) (hneg : g < 0) :
    finishCapture s = .refused .negativeGap := by
  have hsome : ¬ (deliveredGaps s.cfg.period s.cfg.nedges s.et).all (0 ≤ ·) = true := by
    intro hall
    exact not_le_of_gt hneg (of_decide_eq_true (List.all_eq_true.1 hall g hmem))
  rw [finishCapture, if_pos hfull, if_neg hsome]

/-- R120: the host's turn reduces a full timeline. -/
theorem step_of_reducing {s : State} {ts : List Turn} (hvalid : s.cfg.valid = true)
    (hturns : s.turns = .host :: ts) (hphase : s.capPhase = .reducing) :
    step s = finishCapture { s with turns := ts } := by
  rw [step_of_turn hvalid hturns]
  simp only [takeTurn, hostTurn, hphase]

/-- Settles O25: in `REDUCING` the host's turn is the reduction. -/
theorem negativeGapIsRefused : Obligations.NegativeGapIsRefused := by
  rintro s ts hvalid hturns hphase hlen ⟨g, hmem, hneg⟩
  rw [step_of_reducing hvalid hturns hphase]
  exact finishCapture_of_negative hlen.symm.le hmem hneg

end Sys2Proof.Machine
end

section
/-! The delivered gaps and the threshold (41_capture_gaps_frames.md R141, R142). -/

namespace Sys2Proof.Machine

/-- R125, R141: edges less than half a period apart have their true times as gaps. -/
theorem rawGaps_stampsFrom {half : Nat} (hpos : 0 < half) (hword : 2 * half ≤ 2 ^ 32) (t : Nat) :
    ∀ us : List Nat, (∀ u ∈ us, u < half) →
      rawGaps (2 * half) (stampsFrom (2 * half) t us) = us.tail.map Int.ofNat
  | [], _ => rfl
  | [_], _ => rfl
  | u :: v :: r, hnear => by
    have hgap : diff (2 * half) (BitVec.ofNat 32 ((t + u + v) % (2 * half)))
        (BitVec.ofNat 32 ((t + u) % (2 * half))) = v := by
      have hv : v < half := hnear v (by simp)
      rw [diff_stamps hpos hword]
      exact (Int.bmod_eq_of_le (by omega) (by omega)).trans (by omega)
    have hrest := rawGaps_stampsFrom hpos hword (t + u) (v :: r) fun w hw => hnear w (.tail u hw)
    rw [stampsFrom, stampsFrom, rawGaps_cons_cons, hgap]
    exact congrArg (Int.ofNat v :: ·) hrest

/-- Settles O18: only the stamps but the last are read, and the first of their times is no gap. -/
theorem deliveredGapsAreTrueTimes : Obligations.DeliveredGapsAreTrueTimes := by
  intro p t us hlow hp hlen hnear
  have hperiod : 2 ^ p = 2 * 2 ^ (p - 1) := (mul_pow_sub_one (by omega) 2).symm
  have hword : 2 * 2 ^ (p - 1) ≤ 2 ^ 32 := hperiod.symm.trans_le (Nat.pow_le_pow_right Nat.two_pos hp)
  have hread : (us.take (us.length - 1)).tail = (us.drop 1).take (us.length - 2) := by
    rw [← List.drop_one, List.drop_take, Nat.sub_sub]
  rw [hperiod, deliveredGaps, stampsFrom_take, ← hread]
  exact rawGaps_stampsFrom (Nat.two_pow_pos _) hword t _ fun u hu => hnear u (List.mem_of_mem_take hu)

/-- R142: no quotient by 5 is a tie, so adding 2 rounds it. -/
theorem threshold_eq_round (m : Nat) : threshold m = roundHalfEven (4 * m) 5 := by
  rcases roundHalfEven_cases (4 * m) 5 with ⟨hround, hhalf, -⟩ | ⟨hround, hhalf, -⟩
  · rw [hround, threshold]
    omega
  · rw [hround, threshold]
    omega

theorem threshold_le (m : Nat) : threshold m ≤ m := by
  unfold threshold
  omega

theorem threshold_eq_zero_iff {m : Nat} : threshold m = 0 ↔ m = 0 := by
  unfold threshold
  omega

/-- Settles O19: the model's threshold is the rounding, and the bounds are about it. -/
theorem thresholdIsRoundedFourFifths : Obligations.ThresholdIsRoundedFourFifths :=
  fun m => ⟨threshold_eq_round m, threshold_le m, threshold_eq_zero_iff⟩

end Sys2Proof.Machine
end

section
/-! The frames (41_capture_gaps_frames.md R143 to R147). -/

namespace Sys2Proof.Machine

/-- R144: what `TilesGaps` says of each frame. -/
def IsFrame (thr : Nat) (f : Code) : Prop :=
  ∃ body last, f = body ++ [last] ∧ (∀ g ∈ body, g < thr) ∧ thr ≤ last

/-- R144: the frames of a scan tile what has been accumulated and what is still to come, up to a rest without a
boundary. -/
theorem segmentFrom_tiles (thr : Nat) (gaps : List Nat) {cur : Code} (hcur : ∀ g ∈ cur, g < thr) :
    ∃ tail, cur ++ gaps = (segmentFrom thr cur gaps).flatten ++ tail ∧ (∀ g ∈ tail, g < thr) ∧
      ∀ f ∈ segmentFrom thr cur gaps, IsFrame thr f := by
  induction gaps generalizing cur with
  | nil => exact ⟨cur, by simp [segmentFrom], hcur, by simp [segmentFrom]⟩
  | cons g r ih =>
    unfold segmentFrom
    split
    case isTrue hboundary =>
      obtain ⟨tail, htile, htail, hframes⟩ := ih (cur := []) nofun
      refine ⟨tail, ?_, htail, ?_⟩
      · rw [List.flatten_cons, List.append_assoc, ← htile]
        simp
      · exact List.forall_mem_cons.2 ⟨⟨cur, g, rfl, hcur, hboundary⟩, hframes⟩
    case isFalse hinside =>
      have hcur' : ∀ x ∈ cur ++ [g], x < thr :=
        List.forall_mem_append.2 ⟨hcur, List.forall_mem_singleton.2 (Nat.lt_of_not_le hinside)⟩
      obtain ⟨tail, htile, htail, hframes⟩ := ih hcur'
      exact ⟨tail, by rw [← htile]; simp, htail, hframes⟩

/-- R143, R144: where there is a boundary, segmentation discards up to the first and tiles the rest. -/
theorem segmentGaps_tiles {thr : Nat} {gaps : List Nat} (h : ∃ g ∈ gaps, thr ≤ g) :
    TilesGaps thr gaps (segmentGaps thr gaps) := by
  obtain ⟨lead, b, hsplit, hlead, hb⟩ := afterFirstBoundary_split thr gaps h
  obtain ⟨tail, htile, htail, hframes⟩ :=
    segmentFrom_tiles thr (afterFirstBoundary thr gaps) (cur := []) nofun
  refine ⟨lead, b, tail, ?_, hlead, hb, htail, hframes⟩
  rw [segmentGaps, ← htile]
  exact hsplit

/-- Settles O21: the maximum gap is at or above the threshold, so there is a boundary. -/
theorem segmentationTilesTheGaps : Obligations.SegmentationTilesTheGaps :=
  fun gaps hsome => segmentGaps_tiles ⟨maxOf gaps, maxOf_mem hsome, threshold_le (maxOf gaps)⟩

/-- R147: some frame's length has the top count. -/
theorem exists_topCount {frames : List Code} (h : frames ≠ []) :
    ∃ f ∈ frames, lengthCount frames f.length = topCount frames :=
  List.mem_map.1 (maxOf_mem (mt List.map_eq_nil_iff.1 h))

theorem lengthCount_le_topCount {frames : List Code} {f : Code} (h : f ∈ frames) :
    lengthCount frames f.length ≤ topCount frames :=
  le_maxOf (List.mem_map.2 ⟨f, h, rfl⟩)

/-- R147: the modal length is that of the first frame whose length has the top count. -/
theorem modalLength_split {frames : List Code} (h : frames ≠ []) :
    ∃ before f after, frames = before ++ f :: after ∧ modalLength frames = f.length ∧
      lengthCount frames f.length = topCount frames ∧
      ∀ g ∈ before, lengthCount frames g.length ≠ topCount frames := by
  have hsome : (frames.find? fun f => lengthCount frames f.length == topCount frames).isSome := by
    obtain ⟨f, hf, htop⟩ := exists_topCount h
    exact List.find?_isSome.2 ⟨f, hf, beq_iff_eq.2 htop⟩
  obtain ⟨f, hfind⟩ := Option.isSome_iff_exists.1 hsome
  obtain ⟨htop, before, after, hsplit, hbefore⟩ := List.find?_eq_some_iff_append.1 hfind
  refine ⟨before, f, after, hsplit, ?_, beq_iff_eq.1 htop, ?_⟩
  · rw [modalLength, hfind]
  · simpa using hbefore

/-- R147: the modal length is the length of a frame, and no length is more frequent. -/
theorem modalLength_mostFrequent {frames : List Code} (h : frames ≠ []) :
    ∃ f ∈ frames, modalLength frames = f.length ∧
      ∀ g ∈ frames, lengthCount frames g.length ≤ lengthCount frames f.length := by
  obtain ⟨before, f, after, hsplit, hmodal, htop, -⟩ := modalLength_split h
  refine ⟨f, by rw [hsplit]; simp, hmodal, fun g hg => ?_⟩
  rw [htop]
  exact lengthCount_le_topCount hg

theorem mem_keptFrames {frames : List Code} {f : Code} :
    f ∈ keptFrames frames ↔ f ∈ frames ∧ f.length = modalLength frames := by
  simp [keptFrames]

/-- R147: as many frames are kept as have the modal length. -/
theorem keptFrames_length (frames : List Code) :
    (keptFrames frames).length = lengthCount frames (modalLength frames) :=
  List.countP_eq_length_filter.symm

/-- Settles O22: the frames before the first of the top count have less than that. -/
theorem modalLengthIsFirstMostFrequent : Obligations.ModalLengthIsFirstMostFrequent := by
  intro frames hsome
  refine ⟨?_, List.filter_sublist, fun f hf => by simp [mem_keptFrames, hf]⟩
  obtain ⟨before, f, after, hsplit, hmodal, htop, hbefore⟩ := modalLength_split hsome
  refine ⟨before, f, after, hsplit, hmodal, fun g hg => ?_, fun g hg => ?_⟩
  · rw [htop]
    exact lengthCount_le_topCount hg
  · have hmem : g ∈ frames := by
      rw [hsplit]
      exact List.mem_append_left _ hg
    rw [htop]
    exact lt_of_le_of_ne (lengthCount_le_topCount hmem) (hbefore g hg)

/-- R147: a length that at least `n + 1` frames have, and no other length has, is the modal one. -/
theorem modalLength_of_dominant {frames : List Code} {len n : Nat} (hlen : n < lengthCount frames len)
    (hother : ∀ x, x ≠ len → lengthCount frames x ≤ n) : modalLength frames = len := by
  obtain ⟨g, hg, hglen⟩ := List.countP_pos_iff.1 (Nat.zero_lt_of_lt hlen)
  obtain ⟨f, -, hmodal, hmost⟩ := modalLength_mostFrequent (List.ne_nil_of_mem hg)
  have htop := hmost g hg
  rw [beq_iff_eq.1 hglen, ← hmodal] at htop
  by_contra hne
  exact absurd (hother _ hne) (by omega)

end Sys2Proof.Machine
end

section
/-! The average and the quality (41_capture_gaps_frames.md R149 to R151). -/

namespace Sys2Proof.Machine

/-- A sum of non-negative terms vanishes with every term. -/
theorem sum_map_eq_zero_iff_of_nonneg {α K : Type} [Field K] [LinearOrder K] [IsStrictOrderedRing K]
    {l : List α} {f : α → K} (h : ∀ x ∈ l, 0 ≤ f x) : (l.map f).sum = 0 ↔ ∀ x ∈ l, f x = 0 := by
  constructor
  · intro hsum x hx
    exact List.all_zero_of_le_zero_le_of_sum_eq_zero (List.forall_mem_map.2 h) hsum (List.mem_map_of_mem hx)
  · intro hzero
    exact List.sum_eq_zero (List.forall_mem_map.2 hzero)

/-- R150: a variance is a mean of squares. -/
theorem variance_nonneg (col : List Nat) : 0 ≤ variance col :=
  div_nonneg (List.sum_nonneg (List.forall_mem_map.2 fun _ _ => mul_self_nonneg _)) (Nat.cast_nonneg _)

/-- The mean of equal values is the value. -/
theorem mean_of_const {col : List Nat} {x : Nat} (hx : x ∈ col) (h : ∀ y ∈ col, y = x) : mean col = x := by
  have hsum : col.sum = col.length * x := List.sum_eq_card_nsmul col x h
  have hlen : (col.length : Rat) ≠ 0 := Nat.cast_ne_zero.2 (List.length_pos_of_mem hx).ne'
  rw [mean, hsum, Nat.cast_mul, mul_div_cancel_left₀ _ hlen]

/-- R150: a column has variance 0 exactly when its values are all the same. -/
theorem variance_eq_zero_iff (col : List Nat) : variance col = 0 ↔ ∀ x ∈ col, ∀ y ∈ col, x = y := by
  have hmean : variance col = 0 ↔ ∀ x ∈ col, (x : Rat) = mean col := by
    rcases eq_or_ne col [] with rfl | hsome
    · simp [variance]
    · have hlen : (col.length : Rat) ≠ 0 := Nat.cast_ne_zero.2 (mt List.length_eq_zero_iff.1 hsome)
      rw [variance, div_eq_zero_iff, or_iff_left hlen,
        sum_map_eq_zero_iff_of_nonneg fun _ _ => mul_self_nonneg _]
      simp only [mul_self_eq_zero, sub_eq_zero]
  rw [hmean]
  constructor
  · intro h x hx y hy
    exact Nat.cast_injective ((h x hx).trans (h y hy).symm)
  · intro h x hx
    exact (mean_of_const hx fun y hy => h y hy x hx).symm

theorem variances_nonneg (kept : List Code) (len : Nat) : ∀ v ∈ variances kept len, 0 ≤ v :=
  List.forall_mem_map.2 fun i _ => variance_nonneg (column kept i)

/-- R150: the variances are all 0 exactly when the frames agree at every position below `len`. -/
theorem variances_eq_zero_iff (kept : List Code) (len : Nat) : (∀ v ∈ variances kept len, v = 0) ↔
    ∀ i < len, ∀ f ∈ kept, ∀ g ∈ kept, f.getD i 0 = g.getD i 0 := by
  simp only [variances, List.forall_mem_map, List.mem_range, variance_eq_zero_iff, column]

theorem qualityOf_nonneg (v : List Rat) : 0 ≤ qualityOf v :=
  div_nonneg (List.sum_nonneg (List.forall_mem_map.2 fun _ _ => Real.sqrt_nonneg _)) (Nat.cast_nonneg _)

/-- R150: the quality of non-negative variances is 0 exactly when they are all 0. -/
theorem qualityOf_eq_zero_iff {v : List Rat} (h : ∀ q ∈ v, 0 ≤ q) : qualityOf v = 0 ↔ ∀ q ∈ v, q = 0 := by
  rcases eq_or_ne v [] with rfl | hsome
  · simp [qualityOf]
  · have hlen : (v.length : Real) ≠ 0 := Nat.cast_ne_zero.2 (mt List.length_eq_zero_iff.1 hsome)
    rw [qualityOf, div_eq_zero_iff, or_iff_left hlen,
      sum_map_eq_zero_iff_of_nonneg fun _ _ => Real.sqrt_nonneg _]
    refine forall₂_congr fun q hq => ?_
    rw [Real.sqrt_eq_zero (Rat.cast_nonneg.2 (h q hq)), Rat.cast_eq_zero]

/-- Codes of one length are equal when they agree at every position. -/
theorem code_ext {f g : Code} {len : Nat} (hf : f.length = len) (hg : g.length = len)
    (h : ∀ i < len, f.getD i 0 = g.getD i 0) : f = g := by
  refine List.ext_getElem (hf.trans hg.symm) fun i hi hi' => ?_
  simpa [hi, hi'] using h i (hf ▸ hi)

/-- Settles O29: the quality is 0 when the variances are, and they are when the frames agree everywhere. -/
theorem qualityZeroIffFramesIdentical : Obligations.QualityZeroIffFramesIdentical := by
  intro kept len hsome hpos hlen
  refine ⟨qualityOf_nonneg _, ?_⟩
  rw [qualityOf_eq_zero_iff (variances_nonneg kept len), variances_eq_zero_iff]
  constructor
  · intro hagree f hf g hg
    exact code_ext (hlen f hf) (hlen g hg) fun i hi => hagree i hi f hf g hg
  · intro hsame i hi f hf g hg
    rw [hsame f hf g hg]

@[simp] theorem averagedCode_length (kept : List Code) (len : Nat) : (averagedCode kept len).length = len := by
  simp [averagedCode]

/-- R149: the code holds the rounded mean of each position. -/
theorem averagedCode_getElem? {kept : List Code} {len i : Nat} (h : i < len) :
    (averagedCode kept len)[i]? = some (roundHalfEven (column kept i).sum kept.length) := by
  simp [averagedCode, h]

/-- R15: a whole quotient is not rounded. -/
theorem roundHalfEven_mul {n : Nat} (hn : 0 < n) (x : Nat) : roundHalfEven (n * x) n = x := by
  rcases roundHalfEven_cases (n * x) n with ⟨hround, -, -⟩ | ⟨-, hhalf, -⟩
  · rw [hround, Nat.mul_div_cancel_left x hn]
  · rw [Nat.mul_mod_right] at hhalf
    omega

theorem modalLength_replicate {n : Nat} (hn : 0 < n) (f : Code) :
    modalLength (List.replicate n f) = f.length := by
  obtain ⟨g, hg, hmodal, -⟩ := modalLength_mostFrequent (mt (List.replicate_eq_nil_iff f).1 hn.ne')
  rw [hmodal, List.eq_of_mem_replicate hg]

theorem keptFrames_replicate {n : Nat} (hn : 0 < n) (f : Code) :
    keptFrames (List.replicate n f) = List.replicate n f := by
  rw [keptFrames, modalLength_replicate hn]
  simp

/-- R151: equal frames have that frame as their average. -/
theorem averagedCode_replicate {n : Nat} (hn : 0 < n) (f : Code) :
    averagedCode (List.replicate n f) f.length = f := by
  refine code_ext (averagedCode_length _ _) rfl fun i hi => ?_
  have hsum : (column (List.replicate n f) i).sum = n * f.getD i 0 := by simp [column]
  rw [List.getD_eq_getElem?_getD, averagedCode_getElem? hi, hsum, List.length_replicate,
    roundHalfEven_mul hn, Option.getD_some]

/-- Settles O28: copies of a frame are all kept, average to it, and are identical. -/
theorem identicalFramesAverageToThemselves : Obligations.IdenticalFramesAverageToThemselves := by
  intro q f n hn hf
  have hpos : 0 < n := Nat.zero_lt_of_lt hn
  have hkept := keptFrames_replicate hpos f
  have hjudge := judgeFrames_of_enough (q := q) (frames := List.replicate n f) (by rw [hkept]; simpa using hn)
  rw [hkept, modalLength_replicate hpos, averagedCode_replicate hpos] at hjudge
  have hquality := qualityZeroIffFramesIdentical (List.replicate n f) f.length
    (mt (List.replicate_eq_nil_iff f).1 hpos.ne') (List.length_pos_iff.2 hf)
    fun g hg => by rw [List.eq_of_mem_replicate hg]
  refine ⟨_, hjudge, rfl, by simp, by simp, hquality.2.2 fun g hg g' hg' => ?_⟩
  rw [List.eq_of_mem_replicate hg, List.eq_of_mem_replicate hg']

end Sys2Proof.Machine
end

section
/-! The end of a capture (41_capture_gaps_frames.md R146, R148, R152, R154). -/

namespace Sys2Proof.Machine

/-- Settles O23: the frames are judged a success, and their average is inserted under the key. -/
theorem captureSuccessRule : Obligations.CaptureSuccessRule := by
  intro s ts gaps hvalid hturns hphase hlen hgaps hkept
  have hstep := step_finish hvalid hturns hphase hlen hgaps
  rw [judgeFrames_of_enough hkept] at hstep
  refine ⟨_, storeInsert s.capKey _ s.store, _, _, _, _, hstep, rfl, rfl, rfl, rfl, rfl, rfl, ?_, fun k hk => ?_⟩
  · refine ⟨_, (storeLookup_insert ..).trans (if_pos rfl), averagedCode_length _ _, fun i hi => ?_⟩
    rw [averagedCode_length] at hi
    exact averagedCode_getElem? hi
  · rw [storeLookup_insert, if_neg hk]

/-- Settles O24: one of the two checks fails. -/
theorem captureFailureRule : Obligations.CaptureFailureRule := by
  intro s ts gaps hvalid hturns hphase hlen hgaps hkept
  have hstep := step_finish hvalid hturns hphase hlen hgaps
  rcases Nat.lt_or_ge (framesOf gaps).length 5 with hfew | hmany
  · rw [judgeFrames_of_few hfew] at hstep
    exact ⟨_, _, _, _, _, hstep, rfl, rfl, rfl, fun _ => ⟨rfl, rfl⟩, fun hmany => absurd hfew hmany.not_gt⟩
  · rw [judgeFrames_of_few_kept hmany hkept] at hstep
    exact ⟨_, _, _, _, _, hstep, rfl, rfl, rfl, fun hfew => absurd hfew hmany.not_gt, fun _ => ⟨rfl, rfl⟩⟩

/-- Settles O26: the dominant length is the modal one, so the capture succeeds. -/
theorem dominantLengthIsCaptured : Obligations.DominantLengthIsCaptured := by
  intro s ts gaps len hvalid hturns hphase hlen hgaps hmany hother
  have hmodal : modalLength (framesOf gaps) = len := modalLength_of_dominant hmany hother
  have hkept : 5 ≤ (keptFrames (framesOf gaps)).length := by rwa [keptFrames_length, hmodal]
  have hsome : gaps ≠ [] := by
    rintro rfl
    have hnone : lengthCount (framesOf []) len = 0 := rfl
    omega
  obtain ⟨r, store, et, gs, thr, frames, hstep, hok, -, -, -, -, -, ⟨code, hcode, hcodeLen, -⟩, -⟩ :=
    captureSuccessRule s ts gaps hvalid hturns hphase hlen hgaps hkept
  exact ⟨_, code, hstep, rfl, hok, segmentationTilesTheGaps gaps hsome, hcode, hcodeLen.trans hmodal,
    hmodal.symm⟩

end Sys2Proof.Machine
end

section
/-! The buffer build (42_playback_build.md R170, R172, R181). -/

namespace Sys2Proof.Machine

/-- R172: how many copies of the code the buffer holds. -/
def bufferCopies (cfg : Config) : Nat := if nativeLoop cfg = true then 1 else cfg.reps

theorem bufferContent_eq_copies (cfg : Config) (c : Code) :
    bufferContent cfg c = repeatCode (bufferCopies cfg) c ++ [0] := by
  unfold bufferContent bufferCopies
  split <;> simp [repeatCode]

/-- R172: where the sentinel of the built buffer stands. -/
theorem bufferCopies_mul_length (cfg : Config) (c : Code) :
    bufferCopies cfg * c.length =
      if cfg.strategy = .generator ∧ cfg.genNativeLoop = true then c.length else cfg.reps * c.length := by
  simp only [bufferCopies, nativeLoop_iff, ite_mul, Nat.one_mul]

theorem bufferContent_length_eq_copies (cfg : Config) (c : Code) :
    (bufferContent cfg c).length = bufferCopies cfg * c.length + 1 := by
  rw [bufferContent_eq_copies, List.length_append, repeatCode_length, List.length_singleton]

theorem bufferContent_of_callback {cfg : Config} (h : cfg.strategy = .callback) (c : Code) :
    bufferContent cfg c = repeatCode cfg.reps c ++ [0] := by
  simp [bufferContent, nativeLoop, h]

theorem bufferContent_of_generator {cfg : Config} (h : cfg.strategy = .generator) (c : Code) :
    bufferContent cfg c = if cfg.genNativeLoop then c ++ [0] else repeatCode cfg.reps c ++ [0] := by
  simp [bufferContent, nativeLoop, h]

/-- R172: `s` after the content `b`, when it fits, has been written to `PB`. -/
def State.withContent (s : State) (b : List Nat) : State :=
  { s with pb := b.map (BitVec.ofNat 32) ++ s.pb.drop b.length }

theorem withContent_pb_length {s : State} {b : List Nat} (h : b.length ≤ s.pb.length) :
    (s.withContent b).pb.length = s.pb.length := by
  rw [State.withContent, List.length_append, List.length_map, List.length_drop, Nat.add_sub_cancel' h]

theorem withContent_pb_take (s : State) (b : List Nat) :
    (s.withContent b).pb.take b.length = b.map (BitVec.ofNat 32) := List.take_left' (List.length_map _)

theorem withContent_pb_of_lt {s : State} {b : List Nat} {j : Nat} (h : j < b.length) :
    (s.withContent b).pb[j]? = b[j]?.map (BitVec.ofNat 32) := by
  rw [State.withContent, List.getElem?_append_left (by rwa [List.length_map]), List.getElem?_map]

theorem withContent_pb_of_ge {s : State} {b : List Nat} {j : Nat} (h : b.length ≤ j) :
    (s.withContent b).pb[j]? = s.pb[j]? := by
  rw [State.withContent, List.getElem?_append_right (by rwa [List.length_map]), List.length_map,
    List.getElem?_drop, Nat.add_sub_cancel' h]

/-- R172: content that fits is built. -/
theorem buildBuffer_withContent {c : Code} {s : State} (hsize : s.pb.length = s.pbCap)
    (hroom : (bufferContent s.cfg c).length ≤ s.pbCap) (hfits : ∀ e ∈ c, e < 2 ^ 32) :
    buildBuffer c s = .next (s.withContent (bufferContent s.cfg c)) :=
  buildBuffer_of_fits hroom (fitsU32_iff.2 hfits) (hsize ▸ hroom)

theorem buildBuffer_of_too_long {c : Code} {s : State} (h : s.pbCap < (bufferContent s.cfg c).length) :
    buildBuffer c s = .refused .contentTooLong := by
  rw [buildBuffer, if_neg h.not_ge]

theorem not_fitsU32_of_wide {c : Code} (h : ∃ e ∈ c, 2 ^ 32 ≤ e) : ¬ fitsU32 c = true := by
  obtain ⟨e, he, hwide⟩ := h
  exact fun hfits => hwide.not_gt (fitsU32_iff.1 hfits e he)

theorem buildBuffer_of_wide {c : Code} {s : State} (hfits : (bufferContent s.cfg c).length ≤ s.pbCap)
    (hwide : ∃ e ∈ c, 2 ^ 32 ≤ e) : buildBuffer c s = .refused .elementTooWide := by
  rw [buildBuffer, if_pos hfits, if_neg (not_fitsU32_of_wide hwide)]

/-- R181: `TXNB` refuses what the build refuses. -/
theorem exec_txnb_of_refused {k : Nat} {s : State} {c : Code} {why : Refusal} (hfree : s.hostFree = true)
    (hquiet : s.running = false) (hc : storeLookup k s.store = some c)
    (hbuild : buildBuffer c s = .refused why) : exec (.txnb k) s = .refused why := by
  change execTxnb k s = _
  rw [execTxnb, whenQuiet_of_quiet hfree hquiet, withCode_of_some hc, hbuild, andThen]

/-- R204: `TXB` has no buffer to fit, but durations to sleep. -/
theorem exec_txb_of_wide {k : Nat} {s : State} {c : Code} (hfree : s.hostFree = true)
    (hquiet : s.running = false) (hc : storeLookup k s.store = some c) (hwide : ∃ e ∈ c, 2 ^ 32 ≤ e) :
    exec (.txb k) s = .refused .elementTooWide := by
  change execTxb k s = _
  rw [execTxb, whenQuiet_of_quiet hfree hquiet, withCode_of_some hc, if_neg (not_fitsU32_of_wide hwide)]

/-- Settles O35: the length is checked first, then the elements. -/
theorem misfitCodesAreRefused : Obligations.MisfitCodesAreRefused := by
  intro s k c hfree hquiet hc
  refine ⟨fun hlong => ?_, fun hfits hwide => ?_, fun hwide => ?_⟩
  · exact exec_txnb_of_refused hfree hquiet hc (buildBuffer_of_too_long hlong)
  · exact exec_txnb_of_refused hfree hquiet hc (buildBuffer_of_wide hfits hwide)
  · exact exec_txb_of_wide hfree hquiet hc hwide

/-- R172: a position below the sentinel holds the code's element at that position of its copy. -/
theorem bufferContent_getElem? {cfg : Config} {code : Code} {j : Nat}
    (h : j < bufferCopies cfg * code.length) :
    ∃ e ∈ code, code[j % code.length]? = some e ∧ (bufferContent cfg code)[j]? = some e := by
  have hpos : 0 < code.length := Nat.pos_of_mul_pos_left (Nat.zero_lt_of_lt h)
  obtain ⟨e, hread⟩ : ∃ e, code[j % code.length]? = some e :=
    ⟨_, List.getElem?_eq_getElem (Nat.mod_lt j hpos)⟩
  refine ⟨e, List.mem_of_getElem? hread, hread, ?_⟩
  rw [bufferContent_eq_copies, List.getElem?_append_left (by rwa [repeatCode_length]),
    repeatCode_getElem? h, hread]

/-- R172: the sentinel follows the copies. -/
theorem bufferContent_sentinel (cfg : Config) (c : Code) :
    (bufferContent cfg c)[bufferCopies cfg * c.length]? = some 0 := by
  rw [bufferContent_eq_copies, ← repeatCode_length, List.getElem?_concat_length]

/-- Settles O32: a position is in the copies, on the sentinel or above the content. -/
theorem builtBufferElements : Obligations.BuiltBufferElements := by
  intro s c n hsize hfits hn hroom
  rw [← bufferCopies_mul_length] at hn
  have hlen : (bufferContent s.cfg c).length = n + 1 := by rw [bufferContent_length_eq_copies, hn]
  have hroom : (bufferContent s.cfg c).length ≤ s.pbCap := hlen ▸ hroom
  refine ⟨_, buildBuffer_withContent hsize hroom hfits, rfl, withContent_pb_length (hsize ▸ hroom),
    fun j hj => ?_, ?_, fun j hj => ?_⟩
  · obtain ⟨e, he, hread, hcontent⟩ := bufferContent_getElem? (hn ▸ hj)
    refine ⟨BitVec.ofNat 32 e, ?_, ?_⟩
    · rw [withContent_pb_of_lt (by omega), hcontent, Option.map_some]
    · rw [List.head?_drop, hread, BitVec.toNat_ofNat, Nat.mod_eq_of_lt (hfits e he)]
  · rw [withContent_pb_of_lt (by omega), hn, bufferContent_sentinel]
    rfl
  · exact withContent_pb_of_ge (by omega)

end Sys2Proof.Machine
end

section
/-! `TXNB`, `LATENCY` and `CONFIG` (42_playback_build.md R170, R173, R176, R178). -/

namespace Sys2Proof.Machine

/-- R170: the buffer is built, and the strategy's transmission started. -/
theorem exec_txnb_of_fits {k : Nat} {s : State} {c : Code} (hfree : s.hostFree = true)
    (hquiet : s.running = false) (hc : storeLookup k s.store = some c) (hsize : s.pb.length = s.pbCap)
    (hroom : (bufferContent s.cfg c).length ≤ s.pbCap) (hfits : ∀ e ∈ c, e < 2 ^ 32) :
    exec (.txnb k) s = .next (startTransmission (bufferContent s.cfg c).length
      (s.withContent (bufferContent s.cfg c))) :=
  execTxnb_of_fits hfree hquiet hc hroom (fitsU32_iff.2 hfits) (hsize ▸ hroom)

/-- Settles O30: the callback chain starts on the built buffer. -/
theorem txnbStartsCallbackChain : Obligations.TxnbStartsCallbackChain := by
  intro s k c hfree hquiet hc hstrategy hsize hroom hfits
  have hcontent := bufferContent_of_callback hstrategy c
  have hlen : (bufferContent s.cfg c).length = s.cfg.reps * c.length + 1 := by
    rw [hcontent, List.length_append, repeatCode_length, List.length_singleton]
  have hbuilt : (s.withContent (bufferContent s.cfg c)).cfg.strategy = .callback := hstrategy
  rw [exec_txnb_of_fits hfree hquiet hc hsize (hlen ▸ hroom) hfits, startTransmission_callback hbuilt,
    State.withContent, hlen, hcontent]
  rfl

/-- R200, R203: the waveform offered to the backend is the content just written. -/
theorem loadAndRun_withContent (s : State) (b : List Nat) :
    loadAndRun b.length (s.withContent b) =
      if s.genAccepts = true then
        State.succeed { s.withContent b with
          genWave := b.map (BitVec.ofNat 32)
          genLoops := if s.cfg.genNativeLoop then s.cfg.reps else 1
          genPos := 0
          genRunning := true } .done
      else (s.withContent b).raise .generatorRejected := by
  rw [loadAndRun, withContent_pb_take]
  rfl

/-- Settles O31: the generator is offered the built content, and the backend decides. -/
theorem txnbUnderGeneratorRule : Obligations.TxnbUnderGeneratorRule := by
  intro s k c b hfree hquiet hc hstrategy hb hsize hroom hfits
  obtain rfl : b = bufferContent s.cfg c := hb.trans (bufferContent_of_generator hstrategy c).symm
  have hbuilt : (s.withContent (bufferContent s.cfg c)).cfg.strategy = .generator := hstrategy
  rw [exec_txnb_of_fits hfree hquiet hc hsize hroom hfits, startTransmission_generator hbuilt,
    loadAndRun_withContent]
  rfl

/-- Settles O44: `LATENCY` asks only that the host is in no command. -/
theorem latencyReturnsStoredFigure : Obligations.LatencyReturnsStoredFigure :=
  fun _ hfree => whenFree_of_free hfree

theorem polarityUnsupported_iff {cfg : Config} {a : Bool} : polarityUnsupported cfg a = true ↔
    a = true ∧ cfg.strategy = .generator ∧ cfg.genActiveLowOk = false := by
  simp [polarityUnsupported, and_assoc]

/-- Settles O45: by whether the hardware can express the polarity. -/
theorem configRule : Obligations.ConfigRule := by
  intro s a hfree hquiet
  change execConfig a s = _
  rw [execConfig, whenQuiet_of_quiet hfree hquiet]
  simp only [← polarityUnsupported_iff]
  split <;> rfl

end Sys2Proof.Machine
end

section
/-! The latency figure of a `LOAD` (42_playback_build.md R177, 44_store.md R226). -/

namespace Sys2Proof.Machine

/-- A measure of the entries of a store is bounded by its maximum over them. -/
theorem le_maxOf_map {m : Store} {k : Nat} {c : Code} (f : Nat × Code → Nat)
    (h : storeLookup k m = some c) : f (k, c) ≤ maxOf (m.map f) :=
  le_maxOf (List.mem_map_of_mem (storeLookup_mem h))

/-- The maximum of a measure over a non-empty store is taken by an entry. -/
theorem exists_eq_maxOf_map {m : Store} (f : Nat × Code → Nat) (h : m ≠ []) :
    ∃ e ∈ m, f e = maxOf (m.map f) :=
  List.mem_map.1 (maxOf_mem (List.map_eq_nil_iff.not.2 h))

/-- R226: a `LOAD` that ends without an error has installed a store. -/
theorem exec_load_of_no_error {s t : State} (h : exec .load s = .next t) (herr : t.err = .none) :
    ∃ m, t = (installStore m s).succeed .done := by
  obtain ⟨-, -, ⟨-, rfl⟩ | ⟨m, -, rfl⟩⟩ := execLoad_next h
  · cases herr
  · exact ⟨_, rfl⟩

/-- R177 in microseconds. -/
theorem computeLatency_mul_thousand (reps : Nat) (m : Store) :
    computeLatency reps m * 1000 = (((reps + 2) * longestOnTime m : Nat) : Rat) := by
  rw [computeLatency, Rat.mkRat_eq_div, latencyExtra]
  push_cast
  exact div_mul_cancel₀ _ (by norm_num)

theorem computeLatency_nil (reps : Nat) : computeLatency reps [] = 0 := by
  simp [computeLatency, longestOnTime, maxOf]

theorem sum_le_computeLatency {reps k : Nat} {m : Store} {c : Code} (h : storeLookup k m = some c) :
    (((reps + 2) * c.sum : Nat) : Rat) ≤ computeLatency reps m * 1000 := by
  have hle : c.sum ≤ longestOnTime m := le_maxOf_map (fun e => e.2.sum) h
  rw [computeLatency_mul_thousand]
  exact Nat.cast_le.2 (Nat.mul_le_mul_left _ hle)

theorem computeLatency_attained {reps : Nat} {m : Store} (h : m ≠ []) :
    ∃ e ∈ m, computeLatency reps m * 1000 = (((reps + 2) * e.2.sum : Nat) : Rat) := by
  obtain ⟨e, he, hmax⟩ := exists_eq_maxOf_map (fun e => e.2.sum) h
  exact ⟨e, he, by rw [computeLatency_mul_thousand, hmax, longestOnTime]⟩

/-- Settles O52: the figure a `LOAD` installs is that of the longest on-time of the merged store. -/
theorem latencyFigureBoundsEveryCode : Obligations.LatencyFigureBoundsEveryCode := by
  intro s t hload herr
  obtain ⟨m, rfl⟩ := exec_load_of_no_error hload herr
  refine ⟨fun _ _ => sum_le_computeLatency, ?_⟩
  rcases eq_or_ne m [] with rfl | hne
  · exact .inl ⟨rfl, computeLatency_nil _⟩
  · exact .inr (computeLatency_attained hne)

end Sys2Proof.Machine
end

section
/-! The timer fire and the callback chain (43_playback_timer.md R191, R192, R196). -/

namespace Sys2Proof.Machine

/-- The element at the front of a buffer's remainder, and the remainder after it. -/
theorem getElem?_of_drop_eq_cons {l r : List Word} {i : Nat} {x : Word} (h : l.drop i = x :: r) :
    l[i]? = some x ∧ l.drop (i + 1) = r :=
  ⟨by rw [← List.head?_drop, h, List.head?_cons], by rw [← List.tail_drop, h, List.tail_cons]⟩

/-- R29, R61: a duration in range is stored as a word that is no sentinel and reads back unchanged. -/
theorem ofNat_duration {d : Nat} (h : 0 < d ∧ d < 2 ^ 32) :
    BitVec.ofNat 32 d ≠ 0 ∧ (BitVec.ofNat 32 d).toNat = d := by
  have htoNat : (BitVec.ofNat 32 d).toNat = d := by
    rw [BitVec.toNat_ofNat, Nat.mod_eq_of_lt h.2]
  refine ⟨fun hzero => h.1.ne' ?_, htoNat⟩
  rw [← htoNat, hzero]
  rfl

/-- R75, R196: the pin record grows pulse by pulse. -/
theorem append_pulsesFrom_cons (log : List PinEvent) (al : Bool) (i d : Nat) (b : List Nat) :
    log ++ pulsesFrom al i (d :: b) = log ++ [⟨levelOf al i, some d⟩] ++ pulsesFrom al (i + 1) b := by
  rw [pulsesFrom, List.append_assoc, List.singleton_append]

/-- R191, R251: an armed timer outside the critical section expires and fires. -/
theorem timerTurn_of_enabled {s : State} {d : Word} (harmed : s.timerArmed = true) (hcrit : s.crit = false)
    (hread : s.pb[s.index]? = some d) : timerTurn s = .next (fireOn d s.enterCallback) := by
  have hfire : timerFire s.enterCallback = .next (fireOn d s.enterCallback) := by
    simp only [timerFire, enterCallback_pb, enterCallback_index, hread]
  rw [timerTurn, harmed, hcrit, ← hfire]
  rfl

/-- R191, R192: the turn of an armed timer outside the critical section. -/
theorem step_of_fire {s : State} {ts : List Turn} {d : Word} (hvalid : s.cfg.valid = true)
    (hturns : s.turns = .timer :: ts) (harmed : s.timerArmed = true) (hcrit : s.crit = false)
    (hread : s.pb[s.index]? = some d) :
    step s = .next (fireOn d { s with turns := ts, timerArmed := false }) := by
  rw [step_of_turn hvalid hturns]
  exact timerTurn_of_enabled harmed hcrit hread

/-- R192: the sentinel ends the chain. -/
theorem step_of_fire_sentinel {s : State} {ts : List Turn} (hvalid : s.cfg.valid = true)
    (hturns : s.turns = .timer :: ts) (harmed : s.timerArmed = true) (hcrit : s.crit = false)
    (hread : s.pb[s.index]? = some 0) :
    step s = .next { s with
      turns := ts
      timerArmed := false
      timerDur := Config.freeDuration s.draws
      draws := s.draws + 1
      pstate := .idle
      txPin := s.activeLow
      pinLog := s.pinLog ++ [idleEvent s.activeLow] } := by
  rw [step_of_fire hvalid hturns harmed hcrit hread, fireOn, if_pos rfl]
  rfl

/-- R192: a duration becomes a pulse, and the timer is armed again for it. -/
theorem step_of_fire_duration {s : State} {ts : List Turn} {d : Word} (hvalid : s.cfg.valid = true)
    (hturns : s.turns = .timer :: ts) (harmed : s.timerArmed = true) (hcrit : s.crit = false)
    (hread : s.pb[s.index]? = some d) (hd : d ≠ 0) :
    step s = .next { s with
      turns := ts
      timerArmed := true
      timerDur := d
      index := s.index + 1
      txPin := levelOf s.activeLow s.index
      pinLog := s.pinLog ++ [⟨levelOf s.activeLow s.index, some d.toNat⟩] } := by
  rw [step_of_fire hvalid hturns harmed hcrit hread, fireOn, if_neg hd]
  rfl

/-- Settles O36: by whether the element is the sentinel. -/
theorem timerFireRule : Obligations.TimerFireRule := by
  intro s ts d hvalid hturns harmed hcrit hread
  refine ⟨Config.freeDuration s.draws, ?_⟩
  split
  case isTrue hzero =>
    subst hzero
    exact step_of_fire_sentinel hvalid hturns harmed hcrit hread
  case isFalse hd => exact step_of_fire_duration hvalid hturns harmed hcrit hread hd

/-- R196 from any `INDEX` on, by induction on the pulses `b` still to come: each takes one expiry, and the
sentinel one more. -/
theorem run_chain {b : List Nat} {s : State} {rest : List Word} {ts : List Turn}
    (hvalid : s.cfg.valid = true) (harmed : s.timerArmed = true) (hcrit : s.crit = false)
    (hb : ∀ d ∈ b, 0 < d ∧ d < 2 ^ 32)
    (hpb : s.pb.drop s.index = b.map (BitVec.ofNat 32) ++ 0 :: rest)
    (hturns : s.turns = List.replicate (b.length + 1) .timer ++ ts) :
    run (b.length + 1) s = .next { s with
      turns := ts
      pstate := .idle
      index := s.index + b.length
      timerArmed := false
      timerDur := Config.freeDuration s.draws
      draws := s.draws + 1
      txPin := s.activeLow
      pinLog := s.pinLog ++ pulsesFrom s.activeLow s.index b ++ [idleEvent s.activeLow] } := by
  induction b generalizing s with
  | nil =>
    obtain ⟨hread, -⟩ := getElem?_of_drop_eq_cons hpb
    rw [run_succ (step_of_fire_sentinel hvalid hturns harmed hcrit hread), pulsesFrom, List.append_nil]
    rfl
  | cons d b ih =>
    obtain ⟨hd, hb⟩ := List.forall_mem_cons.1 hb
    obtain ⟨hnonzero, htoNat⟩ := ofNat_duration hd
    obtain ⟨hread, hrest⟩ := getElem?_of_drop_eq_cons hpb
    have hindex : s.index + (d :: b).length = s.index + 1 + b.length :=
      (Nat.succ_add_eq_add_succ _ _).symm
    rw [hindex, append_pulsesFrom_cons, List.length_cons,
      run_succ (step_of_fire_duration hvalid hturns harmed hcrit hread hnonzero), htoNat]
    exact ih hvalid rfl hcrit hb hrest rfl

/-- Settles O37: the chain from `RUNNING(0)`. -/
theorem callbackChainWaveform : Obligations.CallbackChainWaveform := by
  intro s b rest ts hvalid _ hindex harmed hcrit hb hpb hturns
  have hdrop : s.pb.drop s.index = b.map (BitVec.ofNat 32) ++ 0 :: rest := by
    rw [hindex, List.drop_zero, hpb]
  have hrun := run_chain hvalid harmed hcrit hb hdrop hturns
  rw [hindex, Nat.zero_add] at hrun
  exact ⟨_, hrun⟩

end Sys2Proof.Machine
end

section
/-! The generator run (43_playback_timer.md R201). -/

namespace Sys2Proof.Machine

/-- R201: a duration becomes a pulse. -/
theorem generateOn_duration {s : State} {d : Word} (hd : d ≠ 0) :
    generateOn d s = { s with
      genPos := s.genPos + 1
      txPin := levelOf s.activeLow s.genPos
      pinLog := s.pinLog ++ [⟨levelOf s.activeLow s.genPos, some d.toNat⟩] } := by
  rw [generateOn, if_neg hd]
  rfl

/-- R201: the sentinel of a loop that is not the last goes back to position 0. -/
theorem generateOn_restart {s : State} (hloops : 1 < s.genLoops) :
    generateOn 0 s = { s with genLoops := s.genLoops - 1, genPos := 0 } := by
  rw [generateOn, if_pos rfl, if_pos hloops]

/-- R201: the sentinel of the last loop ends the run. -/
theorem generateOn_end {s : State} (hloops : ¬ 1 < s.genLoops) :
    generateOn 0 s = { s with
      genRunning := false
      txPin := s.activeLow
      pinLog := s.pinLog ++ [idleEvent s.activeLow] } := by
  rw [generateOn, if_pos rfl, if_neg hloops]
  rfl

/-- R201: the step of a running generator. -/
theorem step_of_generate {s : State} {ts : List Turn} {d : Word} (hvalid : s.cfg.valid = true)
    (hturns : s.turns = .gen :: ts) (hrun : s.genRunning = true) (hread : s.genWave[s.genPos]? = some d) :
    step s = .next (generateOn d { s with turns := ts }) := by
  rw [step_of_turn hvalid hturns]
  simp only [takeTurn, genTurn, hrun, hread, if_true]

/-- Settles O38: by the element and, on a sentinel, by the loops left. -/
theorem generatorStepRule : Obligations.GeneratorStepRule := by
  intro s ts d hvalid hturns hrun hread
  rw [step_of_generate hvalid hturns hrun hread]
  congr 1
  split
  case isTrue hd => exact generateOn_duration hd
  case isFalse hzero =>
    obtain rfl := not_ne_iff.1 hzero
    split
    case isTrue hloops => exact generateOn_restart hloops
    case isFalse hloops => exact generateOn_end hloops

/-- R201: the pulses `b` from `GEN_POS` on. The pin is left at the level of the last one, or as it was. -/
theorem run_genPulses {b : List Nat} {s : State} {rest : List Word} {ts : List Turn}
    (hvalid : s.cfg.valid = true) (hrun : s.genRunning = true) (hb : ∀ d ∈ b, 0 < d ∧ d < 2 ^ 32)
    (hwave : s.genWave.drop s.genPos = b.map (BitVec.ofNat 32) ++ rest)
    (hturns : s.turns = List.replicate b.length .gen ++ ts) :
    ∃ l, run b.length s = .next { s with
      turns := ts
      genPos := s.genPos + b.length
      txPin := l
      pinLog := s.pinLog ++ pulsesFrom s.activeLow s.genPos b } := by
  induction b generalizing s with
  | nil =>
    have hts : s.turns = ts := hturns
    refine ⟨s.txPin, ?_⟩
    rw [← hts, pulsesFrom, List.append_nil]
    rfl
  | cons d b ih =>
    obtain ⟨hd, hb⟩ := List.forall_mem_cons.1 hb
    obtain ⟨hnonzero, htoNat⟩ := ofNat_duration hd
    obtain ⟨hread, hrest⟩ := getElem?_of_drop_eq_cons hwave
    have hpos : s.genPos + (d :: b).length = s.genPos + 1 + b.length :=
      (Nat.succ_add_eq_add_succ _ _).symm
    rw [hpos, append_pulsesFrom_cons, List.length_cons, run_succ (step_of_generate hvalid hturns hrun hread),
      generateOn_duration hnonzero, htoNat]
    exact ih hvalid hrun hb hrest rfl

/-- R201: one loop from position 0 through the step on its sentinel. -/
theorem run_genLoop {b : List Nat} {s : State} {rest : List Word} {ts : List Turn}
    (hvalid : s.cfg.valid = true) (hrun : s.genRunning = true) (hpos : s.genPos = 0)
    (hb : ∀ d ∈ b, 0 < d ∧ d < 2 ^ 32) (hwave : s.genWave = b.map (BitVec.ofNat 32) ++ 0 :: rest)
    (hturns : s.turns = List.replicate (b.length + 1) .gen ++ ts) :
    ∃ l, run (b.length + 1) s = .next (generateOn 0 { s with
      turns := ts
      genPos := b.length
      txPin := l
      pinLog := s.pinLog ++ pulses s.activeLow b }) := by
  have hdrop : s.genWave.drop s.genPos = b.map (BitVec.ofNat 32) ++ 0 :: rest := by
    rw [hpos, List.drop_zero, hwave]
  have hsentinel : s.genWave[b.length]? = some 0 := by
    rw [hwave, List.getElem?_append_right (List.length_map _).le, List.length_map, Nat.sub_self,
      List.getElem?_cons_zero]
  rw [List.replicate_add, List.append_assoc] at hturns
  obtain ⟨l, hpulses⟩ := run_genPulses hvalid hrun hb hdrop hturns
  rw [hpos, Nat.zero_add] at hpulses
  exact ⟨l, (run_add hpulses).trans (run_succ (step_of_generate hvalid rfl hrun hsentinel))⟩

/-- R201 over a whole run, by induction on the loops `n` that come before the last. -/
theorem run_generator {n : Nat} {b : List Nat} {s : State} {rest : List Word} {ts : List Turn}
    (hvalid : s.cfg.valid = true) (hrun : s.genRunning = true) (hpos : s.genPos = 0)
    (hloops : s.genLoops = n + 1) (hb : ∀ d ∈ b, 0 < d ∧ d < 2 ^ 32)
    (hwave : s.genWave = b.map (BitVec.ofNat 32) ++ 0 :: rest)
    (hturns : s.turns = List.replicate ((n + 1) * (b.length + 1)) .gen ++ ts) :
    run ((n + 1) * (b.length + 1)) s = .next { s with
      turns := ts
      genRunning := false
      genLoops := 1
      genPos := b.length
      txPin := s.activeLow
      pinLog := s.pinLog ++ (List.replicate (n + 1) (pulses s.activeLow b)).flatten ++
        [idleEvent s.activeLow] } := by
  induction n generalizing s with
  | zero =>
    rw [Nat.zero_add] at hloops
    rw [Nat.zero_add, Nat.one_mul] at hturns ⊢
    obtain ⟨l, hloop⟩ := run_genLoop hvalid hrun hpos hb hwave hturns
    rw [hloop, generateOn_end, List.replicate_one, List.flatten_singleton, ← hloops]
    exact hloops.le.not_gt
  | succ n ih =>
    have hmore : 1 < s.genLoops := by omega
    have hleft : s.genLoops - 1 = n + 1 := by omega
    have hlog : s.pinLog ++ (List.replicate (n + 1 + 1) (pulses s.activeLow b)).flatten =
        s.pinLog ++ pulses s.activeLow b ++ (List.replicate (n + 1) (pulses s.activeLow b)).flatten := by
      rw [List.replicate_succ, List.flatten_cons, List.append_assoc]
    rw [Nat.succ_mul (n + 1), Nat.add_comm] at hturns ⊢
    rw [List.replicate_add, List.append_assoc] at hturns
    obtain ⟨l, hloop⟩ := run_genLoop hvalid hrun hpos hb hwave hturns
    rw [hlog, run_add hloop, generateOn_restart]
    · exact ih hvalid hrun rfl hleft hwave rfl
    · exact hmore

/-- Settles O39: the run ends after as many loops as were left. -/
theorem generatorRunWaveform : Obligations.GeneratorRunWaveform := by
  intro s b rest ts hvalid hrun hpos hone hb hwave hturns
  obtain ⟨n, hloops⟩ := Nat.exists_eq_add_of_le' hone
  rw [hloops] at hturns ⊢
  exact ⟨_, run_generator hvalid hrun hpos hloops hb hwave hturns, rfl, rfl, rfl, rfl, rfl, rfl, rfl⟩

end Sys2Proof.Machine
end

section
/-! Commands during a transmission (43_playback_timer.md R195, 60_exceptions.md R252). -/

namespace Sys2Proof.Machine

/-- R292: a command that may not run during a transmission has no next state there. -/
theorem whenQuiet_ne_next_of_running {s t : State} {r : Result} (hrun : s.running = true) :
    whenQuiet s r ≠ .next t := by
  intro h
  obtain ⟨-, hquiet, -⟩ := whenQuiet_next h
  exact Bool.eq_false_iff.1 hquiet hrun

/-- R252: what a command admitted during a transmission can write at all. -/
theorem exec_next_of_running {s t : State} {i : Instr} (hrun : s.running = true) (h : exec i s = .next t) :
    ∃ m f e r n, t = { s with store := m, file := f, err := e, ret := r, draws := n } := by
  cases i with
  | capture k => exact absurd h (whenQuiet_ne_next_of_running hrun)
  | txnb k => exact absurd h (whenQuiet_ne_next_of_running hrun)
  | txb k => exact absurd h (whenQuiet_ne_next_of_running hrun)
  | config a => exact absurd h (whenQuiet_ne_next_of_running hrun)
  | load => exact absurd h (whenQuiet_ne_next_of_running hrun)
  | latency =>
    obtain ⟨-, rfl⟩ := execLatency_next h
    exact ⟨_, _, _, _, _, rfl⟩
  | delete k =>
    obtain ⟨-, ⟨-, rfl⟩ | ⟨-, rfl⟩⟩ := execDelete_next h
    · exact ⟨_, _, _, _, _, rfl⟩
    · exact ⟨_, _, _, _, _, rfl⟩
  | keys =>
    obtain ⟨-, rfl⟩ := execKeys_next h
    exact ⟨_, _, _, _, _, rfl⟩
  | inspect k =>
    obtain ⟨-, ⟨-, rfl⟩ | ⟨c, -, rfl⟩⟩ := execInspect_next h
    · exact ⟨_, _, _, _, _, rfl⟩
    · exact ⟨_, _, _, _, _, rfl⟩
  | save =>
    obtain ⟨-, ⟨-, rfl⟩ | ⟨-, rfl⟩⟩ := execSave_next h
    · exact ⟨_, _, _, _, _, rfl⟩
    · exact ⟨_, _, _, _, _, rfl⟩

/-- Settles O43: nothing the chain or the generator uses is among the fields such a command writes. -/
theorem admittedCommandsLeaveChainAlone : Obligations.AdmittedCommandsLeaveChainAlone := by
  intro s t i hrun h
  obtain ⟨m, f, e, r, n, rfl⟩ := exec_next_of_running hrun h
  exact ⟨rfl, rfl, rfl, rfl, rfl, rfl, rfl, rfl, rfl, rfl, rfl, rfl, rfl⟩

end Sys2Proof.Machine
end

section
/-! Every transmit path puts the same waveform on the pin (43_playback_timer.md R206). -/

namespace Sys2Proof.Machine

theorem mem_of_mem_repeatCode {n e : Nat} {c : Code} (h : e ∈ repeatCode n c) : e ∈ c := by
  obtain ⟨l, hl, he⟩ := List.mem_flatten.1 h
  rwa [List.eq_of_mem_replicate hl] at he

/-- R172: the sentinel is stored as the word 0. -/
theorem map_ofNat_append_sentinel (b : List Nat) :
    (b ++ [0]).map (BitVec.ofNat 32) = b.map (BitVec.ofNat 32) ++ [0] := List.map_append

theorem repeatCode_one (c : Code) : repeatCode 1 c = c := by
  rw [repeatCode, List.replicate_one, List.flatten_singleton]

/-- R100: a well-formed command, then `m` steps of the agent whose turns follow. -/
theorem run_commandThen {s : State} {i : Instr} {a : Turn} {n m : Nat} (hvalid : s.cfg.valid = true)
    (hfree : s.hostFree = true) (hwf : i.wf = true) :
    run (m + 1) (commandThen s (encode i) a n) =
      andThen (exec i { s with turns := List.replicate n a, bus := [] }) (run m) := by
  have hstep : step (commandThen s (encode i) a n) =
      exec i { s with turns := List.replicate n a, bus := [] } :=
    stepRunsDecodedCommand _ _ i _ [] hvalid hfree rfl rfl (decodeOfEncodeIsIdentity i hwf)
  rw [run, hstep]

section
variable {s : State} {k : Nat} {c : Code} (hvalid : s.cfg.valid = true) (hfree : s.hostFree = true)
  (hquiet : s.running = false) (hkey : k < 2 ^ 24) (hc : storeLookup k s.store = some c)
  (hb : ∀ e ∈ c, 0 < e ∧ e < 2 ^ 32) (hsize : s.pb.length = s.pbCap)
  (hroom : (bufferContent s.cfg c).length ≤ s.pbCap)
include hvalid hfree hquiet hkey hc hb hsize hroom

/-- R170, R196: a `TXNB` under CALLBACK and the expiries of its chain. -/
theorem run_txnb_callback (hcrit : s.crit = false) (hstrategy : s.cfg.strategy = .callback) :
    ∃ t, run (s.cfg.reps * c.length + 2)
        (commandThen s (encode (.txnb k)) .timer (s.cfg.reps * c.length + 1)) = .next t ∧
      t.pinLog = s.pinLog ++ pulses s.activeLow (repeatCode s.cfg.reps c) ++ [idleEvent s.activeLow] ∧
      t.running = false ∧ t.err = .none := by
  obtain ⟨-, hstopped⟩ := running_eq_false.1 hquiet
  have hroom : s.cfg.reps * c.length + 1 ≤ s.pbCap := by
    rwa [bufferContent_of_callback hstrategy, List.length_append, repeatCode_length,
      List.length_singleton] at hroom
  rw [run_commandThen (i := .txnb k) hvalid hfree (decide_eq_true hkey),
    txnbStartsCallbackChain { s with turns := _, bus := [] } k c hfree hquiet hc hstrategy hsize hroom
      fun e he => (hb e he).2,
    andThen, map_ofNat_append_sentinel, List.append_assoc, ← repeatCode_length]
  exact ⟨_, run_chain hvalid rfl hcrit (fun e he => hb e (mem_of_mem_repeatCode he)) rfl
    (List.append_nil _).symm, rfl, running_eq_false.2 ⟨nofun, hstopped⟩, rfl⟩

/-- R170, R200, R201: a `TXNB` under GENERATOR and the run of the generator, whose `n` loops each send the
copies that the buffer holds. -/
theorem run_txnb_generator {n : Nat} (haccepts : s.genAccepts = true)
    (hstrategy : s.cfg.strategy = .generator) (hloops : (if s.cfg.genNativeLoop then s.cfg.reps else 1) = n)
    (hn : 1 ≤ n) :
    ∃ t, run (n * (bufferCopies s.cfg * c.length + 1) + 1)
        (commandThen s (encode (.txnb k)) .gen (n * (bufferCopies s.cfg * c.length + 1))) = .next t ∧
      t.pinLog = s.pinLog ++
        (List.replicate n (pulses s.activeLow (repeatCode (bufferCopies s.cfg) c))).flatten ++
        [idleEvent s.activeLow] ∧
      t.running = false ∧ t.err = .none := by
  obtain ⟨hchain, -⟩ := running_eq_false.1 hquiet
  obtain ⟨n, rfl⟩ := Nat.exists_eq_add_of_le' hn
  have hwave : (bufferContent s.cfg c).map (BitVec.ofNat 32) =
      (repeatCode (bufferCopies s.cfg) c).map (BitVec.ofNat 32) ++ [0] := by
    rw [bufferContent_eq_copies, map_ofNat_append_sentinel]
  rw [run_commandThen (i := .txnb k) hvalid hfree (decide_eq_true hkey),
    txnbUnderGeneratorRule { s with turns := _, bus := [] } k c _ hfree hquiet hc hstrategy
      (bufferContent_of_generator hstrategy c) hsize hroom fun e he => (hb e he).2,
    if_pos haccepts, andThen, ← repeatCode_length]
  exact ⟨_, run_generator hvalid rfl rfl hloops (fun e he => hb e (mem_of_mem_repeatCode he)) hwave
    (List.append_nil _).symm, rfl, running_eq_false.2 ⟨hchain, rfl⟩, rfl⟩

end

/-- Settles O42: each path by its own run; the native loop repeats an even code without a change of level. -/
theorem transmitPathsAgree : Obligations.TransmitPathsAgree := by
  rintro s k c hvalid hfree hquiet hcrit hkey hc hb hsize hroom haccepts _ rfl
  refine ⟨?_, ?_, ?_, ?_⟩
  · rw [run_commandThen (i := .txb k) hvalid hfree (decide_eq_true hkey)]
    exact ⟨_, blockingTransmitWaveform { s with turns := _, bus := [] } k c [] hvalid hfree hquiet hc
      (fun e he => (hb e he).2) (List.append_nil _).symm, rfl, rfl, rfl⟩
  · exact run_txnb_callback hvalid hfree hquiet hkey hc hb hsize hroom hcrit
  · intro hstrategy honce
    have hcopies : bufferCopies s.cfg = s.cfg.reps := by simp [bufferCopies, nativeLoop, honce]
    have hrun := run_txnb_generator hvalid hfree hquiet hkey hc hb hsize hroom haccepts hstrategy
      (if_neg (Bool.eq_false_iff.1 honce)) (Nat.le_refl 1)
    rwa [Nat.one_mul, List.replicate_one, List.flatten_singleton, hcopies] at hrun
  · intro hstrategy hnative heven
    obtain ⟨-, -, hreps, -⟩ := valid_bounds hvalid
    have hcopies : bufferCopies s.cfg = 1 := if_pos (nativeLoop_iff.2 ⟨hstrategy, hnative⟩)
    have hrun := run_txnb_generator hvalid hfree hquiet hkey hc hb hsize hroom haccepts hstrategy
      (if_pos hnative) hreps
    rw [hcopies, Nat.one_mul, repeatCode_one] at hrun
    rwa [pulses_repeat_even heven]

end Sys2Proof.Machine
end

section
/-! The CodeStore commands (44_store.md R220, R222, R224, R226, R228, R230). -/

namespace Sys2Proof.Machine

/-! `DELETE`, `KEYS` and `INSPECT`. -/

/-- R220: a present key is erased. -/
theorem exec_delete_of_present {s : State} {k : Nat} {c : Code} (hfree : s.hostFree = true)
    (hc : storeLookup k s.store = some c) :
    exec (.delete k) s = .next (State.succeed { s with store := storeErase k s.store } .done) :=
  (whenFree_of_free hfree).trans (withCode_of_some hc)

theorem exec_inspect_of_present {s : State} {k : Nat} {c : Code} (hfree : s.hostFree = true)
    (hc : storeLookup k s.store = some c) : exec (.inspect k) s = .next (s.succeed (.code c)) :=
  (whenFree_of_free hfree).trans (withCode_of_some hc)

/-- R242: to inspect an absent key is an error. -/
theorem exec_inspect_of_absent {s : State} {k : Nat} (hfree : s.hostFree = true)
    (hk : storeLookup k s.store = none) : exec (.inspect k) s = .next (s.raise (.unknownKey k)) :=
  (whenFree_of_free hfree).trans (withCode_of_none hk)

theorem storeLookup_erase_self (k : Nat) (m : Store) : storeLookup k (storeErase k m) = none :=
  (storeLookup_erase k k m).trans (if_pos rfl)

theorem storeLookup_erase_of_ne {k k' : Nat} (m : Store) (h : k' ≠ k) :
    storeLookup k' (storeErase k m) = storeLookup k' m :=
  (storeLookup_erase k' k m).trans (if_neg h)

/-- Settles O47: the lookup laws of the erased store, in which `INSPECT` then finds nothing. -/
theorem deleteRule : Obligations.DeleteRule := by
  intro s k c hfree hc
  exact ⟨storeErase k s.store, exec_delete_of_present hfree hc, storeLookup_erase_self k _,
    fun _ => storeLookup_erase_of_ne _, storeErase_wf, _,
    exec_inspect_of_absent hfree (storeLookup_erase_self k _), rfl⟩

/-- Settles O48: the keys listed are the domain, without a repetition in the canonical form. -/
theorem keysReturnsDomain : Obligations.KeysReturnsDomain :=
  fun s hfree => ⟨storeKeys s.store, whenFree_of_free hfree, fun _ => mem_storeKeys, storeKeys_nodup⟩

/-- Settles O49: by whether the key is present. -/
theorem inspectRule : Obligations.InspectRule :=
  fun _ _ hfree => ⟨fun _ => exec_inspect_of_present hfree, exec_inspect_of_absent hfree⟩

/-! `SAVE` and `LOAD`. -/

/-- Settles O53: the medium takes the store as the whole file. -/
theorem saveReplacesFile : Obligations.SaveReplacesFile :=
  fun _ hfree hwritable => (whenFree_of_free hfree).trans (if_pos hwritable)

/-- R14: a mapping on a readable medium is read. -/
theorem fileRead_of_mapping {s : State} {m : Store} (hfile : s.file = .mapping m)
    (hreadable : s.mediumReadable = true) : s.fileRead = some m := by
  rw [State.fileRead, hfile]
  exact if_pos hreadable

/-- R226: a mapping that can be read is merged into the store. -/
theorem exec_load_of_mapping {s : State} {m : Store} (hfree : s.hostFree = true)
    (hquiet : s.running = false) (hfile : s.file = .mapping m) (hreadable : s.mediumReadable = true) :
    exec .load s = .next ((installStore (storeMerge s.store m) s).succeed .done) := by
  change execLoad s = _
  rw [execLoad, whenQuiet_of_quiet hfree hquiet, fileRead_of_mapping hfile hreadable]

theorem freshBuffer_length (draw cap : Nat) : (freshBuffer draw cap).length = cap :=
  (List.length_map _).trans List.length_range

/-- Settles O50: the merge law gives the store, the re-size the buffer and its `INDEX`. -/
theorem loadMergesAndResizes : Obligations.LoadMergesAndResizes := by
  intro s m hfree hquiet hfile hm hreadable
  exact ⟨storeMerge s.store m, _, _, exec_load_of_mapping hfree hquiet hfile hreadable,
    freshBuffer_length _ _, indexWithin_lt (bufferSize_pos _ _), indexWithin_of_lt,
    fun k => storeLookup_merge k hm, storeMerge_wf m⟩

/-- R8, R172: the buffer has one position for each element of the copies and one for the sentinel. -/
theorem bufferSize_eq_copies (cfg : Config) (maxlen : Nat) :
    bufferSize cfg maxlen = bufferCopies cfg * maxlen + 1 := by
  unfold bufferSize bufferCopies
  split
  · rw [Nat.one_mul]
  · rfl

/-- R8: a buffer sized for `maxlen` takes the content of every code up to that length. -/
theorem bufferContent_length_le_bufferSize {cfg : Config} {c : Code} {maxlen : Nat}
    (h : c.length ≤ maxlen) : (bufferContent cfg c).length ≤ bufferSize cfg maxlen := by
  rw [bufferContent_length_eq_copies, bufferSize_eq_copies]
  exact Nat.succ_le_succ (Nat.mul_le_mul_left _ h)

theorem length_le_maxCodeLength {k : Nat} {c : Code} {m : Store} (h : storeLookup k m = some c) :
    c.length ≤ maxCodeLength m :=
  le_maxOf_map (fun e => e.2.length) h

/-- Settles O51: `MAXLEN` is the maximum of the lengths, and `PB_CAP` the size for it. -/
theorem loadedSizesFitEveryCode : Obligations.LoadedSizesFitEveryCode := by
  intro s t hload herr
  obtain ⟨m, rfl⟩ := exec_load_of_no_error hload herr
  refine ⟨fun k c hc => ?_, ?_⟩
  · have hlen : c.length ≤ maxCodeLength m := length_le_maxCodeLength hc
    exact ⟨hlen, bufferContent_length_le_bufferSize hlen⟩
  · rcases eq_or_ne m [] with rfl | hne
    · exact .inl ⟨rfl, rfl⟩
    · exact .inr (exists_eq_maxOf_map (fun e => e.2.length) hne)

/-- R230: a canonical store merged into the empty one is itself. -/
theorem storeMerge_nil_left {m : Store} (h : storeWf m) : storeMerge [] m = m :=
  storeMerge_above h nofun

/-- Settles O55: the file holds the saved store, and the load merges it into nothing. -/
theorem saveThenLoadRoundTrip : Obligations.SaveThenLoadRoundTrip := by
  intro s hfree hwritable hwf
  refine ⟨_, saveReplacesFile s hfree hwritable, rfl, fun u hufree huquiet hempty hfile hreadable => ?_⟩
  refine ⟨_, exec_load_of_mapping hufree huquiet hfile hreadable, rfl, ?_⟩
  rw [succeed_store, installStore, hempty, storeMerge_nil_left hwf]

end Sys2Proof.Machine
end

section
/-! Errors with no side effect: `IllegalCommand`, `UnknownKey`, `StoreIOError` (60_exceptions.md R242,
R243, R247, R248). -/

namespace Sys2Proof.Machine

/-- R247: between commands there is no capture to end, so `raise` writes `ERR` and the returned value. -/
theorem raise_of_free {s : State} (hfree : s.hostFree = true) (x : Raised) :
    s.raise x = { s with err := x.kind, ret := .raised x } := by
  have hphase : x.phaseAfter s.capPhase = s.capPhase := by rw [(hostFree_iff.1 hfree).1, phaseAfter_idle]
  rw [State.raise, hphase]

/-! The word that selects no command. -/

theorem issueCommand_of_illegal {w : Word} {e : DecodeError} (h : decode w = .error e) (s : State) :
    issueCommand w s = .next (s.raise .illegalCommand) := by
  simp only [issueCommand, h]

/-- Settles O6: the host's access is the write to `CMD`, and the decoder's error is raised between
commands. -/
theorem illegalWordOnlySetsErr : Obligations.IllegalWordOnlySetsErr := by
  intro s w e ts bs hvalid hfree hturns hbus hdecode
  calc step s
      = hostAccess (.write s.cfg.mrcBase 4 w) { s with turns := ts, bus := bs } :=
        step_of_access hvalid hfree hturns hbus
    _ = issueCommand w { s with turns := ts, bus := bs } :=
        hostAccess_write_cmd w { s with turns := ts, bus := bs }
    _ = .next (State.raise { s with turns := ts, bus := bs } .illegalCommand) :=
        issueCommand_of_illegal hdecode _
    _ = _ := congrArg _ (raise_of_free (s := { s with turns := ts, bus := bs }) hfree .illegalCommand)

/-! The absent key. -/

/-- R242: to delete an absent key is an error. -/
theorem exec_delete_of_absent {s : State} {k : Nat} (hfree : s.hostFree = true)
    (hk : storeLookup k s.store = none) : exec (.delete k) s = .next (s.raise (.unknownKey k)) :=
  (whenFree_of_free hfree).trans (withCode_of_none hk)

/-- R171, R242: `TXNB` looks the key up before it builds the buffer. -/
theorem exec_txnb_of_absent {s : State} {k : Nat} (hfree : s.hostFree = true) (hquiet : s.running = false)
    (hk : storeLookup k s.store = none) : exec (.txnb k) s = .next (s.raise (.unknownKey k)) :=
  (whenQuiet_of_quiet hfree hquiet).trans (withCode_of_none hk)

/-- R204, R242: `TXB` looks the key up before it writes the pin. -/
theorem exec_txb_of_absent {s : State} {k : Nat} (hfree : s.hostFree = true) (hquiet : s.running = false)
    (hk : storeLookup k s.store = none) : exec (.txb k) s = .next (s.raise (.unknownKey k)) :=
  (whenQuiet_of_quiet hfree hquiet).trans (withCode_of_none hk)

/-- Settles O33: each of the four commands ends at its lookup, which raises the error. -/
theorem absentKeyIsUnknownKey : Obligations.AbsentKeyIsUnknownKey := by
  intro s k i hfree hk hcommand
  have hraise : exec i s = .next (s.raise (.unknownKey k)) := by
    obtain rfl | rfl | ⟨rfl | rfl, hquiet⟩ := hcommand
    · exact exec_inspect_of_absent hfree hk
    · exact exec_delete_of_absent hfree hk
    · exact exec_txnb_of_absent hfree hquiet hk
    · exact exec_txb_of_absent hfree hquiet hk
  exact hraise.trans (congrArg _ (raise_of_free hfree (.unknownKey k)))

/-! The failed file access. -/

/-- R14: what makes a file unreadable, its content or the medium. -/
theorem fileRead_eq_none {s : State} (h : (∀ m, s.file ≠ .mapping m) ∨ s.mediumReadable = false) :
    s.fileRead = none := by
  unfold State.fileRead
  split
  case h_1 m hfile =>
    have hunreadable : s.mediumReadable = false := h.resolve_left fun hnone => hnone m hfile
    rw [hunreadable]
    rfl
  all_goals rfl

/-- R226, R243: a file that cannot be read is an error, before anything is merged. -/
theorem exec_load_of_unreadable {s : State} (hfree : s.hostFree = true) (hquiet : s.running = false)
    (hread : s.fileRead = none) : exec .load s = .next (s.raise .storeIO) := by
  change execLoad s = _
  rw [execLoad, whenQuiet_of_quiet hfree hquiet, hread]

/-- R228, R243: a medium that is not writable leaves a free value in the file (log 8). -/
theorem exec_save_of_unwritable {s : State} (hfree : s.hostFree = true)
    (hunwritable : s.mediumWritable = false) : exec .save s =
      .next (State.raise { s with file := Config.freeFile s.draws, draws := s.draws + 1 } .storeIO) :=
  (whenFree_of_free hfree).trans (if_neg (ne_true_of_eq_false hunwritable))

/-- Settles O54: the file's failed read and its failed write, each raised between commands. -/
theorem storeIOErrorRule : Obligations.StoreIOErrorRule := by
  refine ⟨fun s hfree hquiet hbad => ?_, fun s hfree hunwritable => ⟨Config.freeFile s.draws, ?_⟩⟩
  · rw [exec_load_of_unreadable hfree hquiet (fileRead_eq_none hbad), raise_of_free hfree]
    rfl
  · have hfreeAfter :
        State.hostFree { s with file := Config.freeFile s.draws, draws := s.draws + 1 } = true := hfree
    rw [exec_save_of_unwritable hfree hunwritable, raise_of_free hfreeAfter]
    rfl

end Sys2Proof.Machine
end

section
/-! The reset transition, and the commands refused to a busy host (70_reset_and_hazards.md R280, R282,
R292). -/

namespace Sys2Proof.Machine

/-! Reset. -/

/-- R280: a reset waits for no agent, so its turn is taken from any state. -/
theorem step_of_reset {s : State} {ts : List Turn} (hvalid : s.cfg.valid = true)
    (hturns : s.turns = .reset :: ts) : step s = .next (State.resetFrom { s with turns := ts }) :=
  step_of_turn hvalid hturns

/-- Settles O8: the step is `State.resetFrom`, and its fields are what the laws of that say. -/
theorem resetTransition : Obligations.ResetTransition := by
  intro s ts hvalid hturns
  refine ⟨_, step_of_reset hvalid hturns, ?_⟩
  simp [CapResult.cleared]

/-! The refusals. -/

theorem hostFree_eq_false {s : State} :
    s.hostFree = false ↔ s.capPhase ≠ .idle ∨ s.txb.isSome = true := by
  rw [← Bool.not_eq_true, hostFree_iff, not_and_or, ← Option.ne_none_iff_isSome]

theorem whenFree_of_inside {s : State} {r : Result} (hinside : s.hostFree = false) :
    whenFree s r = .refused .hostInsideCommand :=
  if_neg (ne_true_of_eq_false hinside)

theorem whenQuiet_of_inside {s : State} {r : Result} (hinside : s.hostFree = false) :
    whenQuiet s r = .refused .hostInsideCommand :=
  whenFree_of_inside hinside

theorem whenQuiet_of_running {s : State} {r : Result} (hfree : s.hostFree = true)
    (hrunning : s.running = true) : whenQuiet s r = .refused .transmissionRunning :=
  (whenFree_of_free hfree).trans (if_pos hrunning)

/-- R292: inside `CAPTURE` or `TXB` the guard of every command refuses it, whichever of the two it has. -/
theorem exec_of_inside {s : State} (hinside : s.hostFree = false) (i : Instr) :
    exec i s = .refused .hostInsideCommand := by
  cases i with
  | capture | txnb | txb | config | load => exact whenQuiet_of_inside hinside
  | latency | delete | keys | inspect | save => exact whenFree_of_inside hinside

/-- Settles O34: both guards refuse inside a command, and that of the five kinds during a transmission. -/
theorem refusedWhileBusy : Obligations.RefusedWhileBusy := by
  refine fun s i => ⟨fun hinside => exec_of_inside (hostFree_eq_false.2 hinside) i,
    fun hphase htxb hrunning hkind => ?_⟩
  have hfree : s.hostFree = true := hostFree_iff.2 ⟨hphase, htxb⟩
  obtain ⟨k, rfl | rfl | rfl⟩ | ⟨a, rfl⟩ | rfl := hkind <;> exact whenQuiet_of_running hfree hrunning

end Sys2Proof.Machine
end

section
/-! No step changes the parameters (10_state.md R43), and the state right after reset (10_state.md R44, R45). -/

namespace Sys2Proof.Machine

/-! The operations that several turns share. -/

@[simp] theorem startTransmission_cfg (len : Nat) (s : State) : (startTransmission len s).cfg = s.cfg := by
  unfold startTransmission loadAndRun
  split
  · rfl
  · split <;> rfl

@[simp] theorem txbStep_cfg (r : TxbRun) (s : State) : (txbStep r s).cfg = s.cfg := by
  unfold txbStep
  split <;> rfl

@[simp] theorem fireOn_cfg (d : Word) (s : State) : (fireOn d s).cfg = s.cfg := by
  unfold fireOn
  split <;> rfl

@[simp] theorem generateOn_cfg (d : Word) (s : State) : (generateOn d s).cfg = s.cfg := by
  unfold generateOn
  split
  · split <;> rfl
  · rfl

@[simp] theorem environment_cfg (s : State) (e : EnvEvent) : (s.environment e).cfg = s.cfg := by
  cases e <;> rfl

@[simp] theorem reduceGaps_cfg (s : State) (gs : List Int) : (reduceGaps s gs).cfg = s.cfg := by
  rcases reduceGaps_cases s gs with ⟨r, -, heq⟩ | ⟨r, c, -, -, heq⟩
  · rw [heq]
    rfl
  · rw [heq]
    rfl

/-! The commands, the turns, the step. -/

theorem exec_cfg {i : Instr} {s t : State} (h : exec i s = .next t) : t.cfg = s.cfg := by
  cases i with
  | capture k => obtain ⟨-, -, rfl⟩ := execCapture_next h; rfl
  | txnb k =>
    obtain ⟨-, -, ⟨-, rfl⟩ | ⟨c, u, -, hbuild, rfl⟩⟩ := execTxnb_next h
    · rfl
    · obtain ⟨-, -, rfl⟩ := buildBuffer_next hbuild
      exact startTransmission_cfg _ _
  | txb k =>
    obtain ⟨-, -, ⟨-, rfl⟩ | ⟨c, -, -, rfl⟩⟩ := execTxb_next h
    · rfl
    · exact txbStep_cfg _ _
  | latency => obtain ⟨-, rfl⟩ := execLatency_next h; rfl
  | config a => obtain ⟨-, -, ⟨-, rfl⟩ | ⟨-, rfl⟩⟩ := execConfig_next h <;> rfl
  | delete k => obtain ⟨-, ⟨-, rfl⟩ | ⟨-, rfl⟩⟩ := execDelete_next h <;> rfl
  | keys => obtain ⟨-, rfl⟩ := execKeys_next h; rfl
  | inspect k => obtain ⟨-, ⟨-, rfl⟩ | ⟨c, -, rfl⟩⟩ := execInspect_next h <;> rfl
  | load => obtain ⟨-, -, ⟨-, rfl⟩ | ⟨m, -, rfl⟩⟩ := execLoad_next h <;> rfl
  | save => obtain ⟨-, ⟨-, rfl⟩ | ⟨-, rfl⟩⟩ := execSave_next h <;> rfl

theorem hostAccess_cfg {a : HostAccess} {s t : State} (h : hostAccess a s = .next t) : t.cfg = s.cfg := by
  rcases hostAccess_next h with ⟨v, rfl⟩ | ⟨w, -, h⟩
  · rfl
  · rcases issueCommand_next h with ⟨i, -, h⟩ | ⟨e, -, rfl⟩
    · exact exec_cfg h
    · rfl

theorem hostTurn_cfg {s t : State} (h : hostTurn s = .next t) : t.cfg = s.cfg := by
  rcases hostTurn_next h with ⟨-, rfl⟩ | ⟨-, h⟩ | ⟨-, r, -, rfl⟩ | ⟨-, -, rfl⟩ | ⟨-, a, rest, -, h⟩
  · rfl
  · obtain ⟨-, -, rfl⟩ := finishCapture_next h
    exact reduceGaps_cfg _ _
  · exact txbStep_cfg _ _
  · rfl
  · exact hostAccess_cfg (s := { s with bus := rest }) h

theorem samplerTurn_cfg {s t : State} (h : samplerTurn s = .next t) : t.cfg = s.cfg := by
  rcases samplerTurn_next h with ⟨-, h⟩ | ⟨-, rfl⟩
  · rcases samplerStep_next h with ⟨-, rfl⟩ | ⟨-, h⟩
    · rfl
    · obtain ⟨-, rfl⟩ := recordEdge_next h
      rfl
  · rfl

theorem timerTurn_cfg {s t : State} (h : timerTurn s = .next t) : t.cfg = s.cfg := by
  rcases timerTurn_next h with ⟨-, rfl⟩ | ⟨-, -, d, -, rfl⟩
  · rfl
  · exact fireOn_cfg _ _

theorem genTurn_cfg {s t : State} (h : genTurn s = .next t) : t.cfg = s.cfg := by
  rcases genTurn_next h with ⟨-, rfl⟩ | ⟨-, d, -, rfl⟩
  · rfl
  · exact generateOn_cfg _ _

theorem takeTurn_cfg {a : Turn} {s t : State} (h : takeTurn a s = .next t) : t.cfg = s.cfg := by
  cases a with
  | host => exact hostTurn_cfg h
  | sampler => exact samplerTurn_cfg h
  | timer => exact timerTurn_cfg h
  | gen => exact genTurn_cfg h
  | env e => cases h; exact environment_cfg _ e
  | reset => cases h; rfl

/-- Settles O12: no agent's turn writes the parameters. -/
theorem stepKeepsConfiguration : Obligations.StepKeepsConfiguration := by
  intro s t h
  obtain ⟨-, ⟨-, rfl⟩ | ⟨a, ts, -, h⟩⟩ := step_next h
  · rfl
  · exact takeTurn_cfg (s := { s with turns := ts }) h

/-- Settles O9: log 4's configuration is within the bounds, and `resetWith_inv` holds of every such one. -/
theorem resetHasInvariant : Obligations.ResetHasInvariant :=
  ⟨resetWith_inv (by decide), fun _ hc => resetWith_inv hc⟩

end Sys2Proof.Machine
end

section
/-! A whole capture, from the command to the stored average (40_capture_edge.md R120, R122,
41_capture_gaps_frames.md R140 to R152). -/

namespace Sys2Proof.Machine

/-- R120: the state in which `CAPTURE k` waits for the sampler. -/
def State.startCapture (s : State) (k : Nat) (ts : List Turn) (bs : List HostAccess) : State :=
  { s with
    turns := ts, bus := bs, capKey := k, edgeX := 0, lastLevel := s.rxLevel, crit := true,
    capPhase := .sampling }

/-- R100, R120: the host's write of the word of `CAPTURE k` starts the sampling. -/
theorem step_of_capture {s : State} {k : Nat} {ts : List Turn} {bs : List HostAccess}
    (hvalid : s.cfg.valid = true) (hfree : s.hostFree = true) (hquiet : s.running = false)
    (hkey : k < 2 ^ 24) (hturns : s.turns = .host :: ts)
    (hbus : s.bus = .write s.cfg.mrcBase 4 (encode (.capture k)) :: bs) :
    step s = .next (s.startCapture k ts bs) := by
  have hdecode : decode (encode (.capture k)) = .ok (.capture k) :=
    decodeOfEncodeIsIdentity (.capture k) (decide_eq_true hkey)
  rw [stepRunsDecodedCommand s _ _ ts bs hvalid hfree hturns hbus hdecode]
  exact captureStartsSampling { s with turns := ts, bus := bs } k hfree hquiet

/-- R122: the state in which the timeline `et` is full and the host's next turn completes `CAPTURE k`. -/
def State.fullTimeline (s : State) (k : Nat) (et : List Word) (level : Bool) (clock : Word) (ts : List Turn)
    (bs : List HostAccess) : State :=
  { s.startCapture k ts bs with
    et := et, edgeX := s.cfg.nedges, capPhase := .reducing, crit := false, lastLevel := level,
    rxLevel := level, clock := clock }

/-- R122, R124: the polls after the command fill the timeline with the clock readings at the edges. -/
theorem run_polls_of_startCapture {s : State} {polls : List (Nat × Bool)} (k : Nat) (ts : List Turn)
    (bs : List HostAccess) (hvalid : s.cfg.valid = true) (hlen : s.et.length = s.cfg.nedges)
    (hclock : s.clock.toNat < s.cfg.period) (hpolls : polls.length = s.cfg.nedges)
    (hedges : alternates s.rxLevel (polls.map Prod.snd) = true) :
    ∃ (level : Bool) (clock : Word),
      run (3 * s.cfg.nedges) (s.startCapture k (polls.flatMap pollTurns ++ ts) bs) =
        .next (s.fullTimeline k (stampsFrom s.cfg.period s.clock.toNat (polls.map Prod.fst)) level clock ts bs) :=
  samplingFillsTimeline (s.startCapture k (polls.flatMap pollTurns ++ ts) bs) polls ts hvalid rfl rfl hlen
    hclock hpolls hedges rfl

/-- R125, R141: the stamps of one poll per edge deliver the times between the polls. -/
theorem deliveredGaps_of_polls {c : Config} {polls : List (Nat × Bool)} (hvalid : c.valid = true)
    (hpolls : polls.length = c.nedges) (hnear : ∀ p ∈ polls, p.1 < 2 ^ (c.periodLog2 - 1)) (t : Nat) :
    deliveredGaps c.period c.nedges (stampsFrom c.period t (polls.map Prod.fst)) =
      (((polls.map Prod.fst).drop 1).take (c.nedges - 2)).map Int.ofNat := by
  obtain ⟨hnedges, -, -, -, hlow, hhigh⟩ := valid_bounds hvalid
  have hlen : (polls.map Prod.fst).length = c.nedges := by rw [List.length_map, hpolls]
  have hus : ∀ u ∈ polls.map Prod.fst, u < 2 ^ (c.periodLog2 - 1) := List.forall_mem_map.2 hnear
  rw [← hlen]
  exact deliveredGapsAreTrueTimes c.periodLog2 t _ hlow hhigh (hlen.symm ▸ hnedges) hus

/-- Settles O27: the command, the polls and the successful end of the capture, in one run. -/
theorem captureRunStoresAverage : Obligations.CaptureRunStoresAverage := by
  rintro s k polls ts bs _ hvalid hfree hquiet hkey hlen hclock hpolls hedges hnear rfl hkept hturns hbus
  have hstart := step_of_capture hvalid hfree hquiet hkey hturns hbus
  obtain ⟨level, clock, hsample⟩ := run_polls_of_startCapture k (.host :: ts) bs hvalid hlen hclock hpolls hedges
  have hfull : (stampsFrom s.cfg.period s.clock.toNat (polls.map Prod.fst)).length = s.cfg.nedges := by
    rw [stampsFrom_length, List.length_map, hpolls]
  have hgaps := deliveredGaps_of_polls hvalid hpolls hnear s.clock.toNat
  obtain ⟨r, store, et, gs, thr, frames, hfinish, hok, -, -, -, -, -, ⟨code, hcode, hcodeLen, hmeans⟩, hother⟩ :=
    captureSuccessRule (s.fullTimeline k _ level clock (.host :: ts) bs) ts _ hvalid rfl rfl hfull hgaps hkept
  have hpolled :=
    calc run (3 * s.cfg.nedges + 1 + 1) s
      _ = run (3 * s.cfg.nedges + 1) (s.startCapture k (polls.flatMap pollTurns ++ .host :: ts) bs) :=
        run_succ hstart
      _ = run 1 (s.fullTimeline k _ level clock (.host :: ts) bs) := run_add hsample
  exact ⟨_, code, hpolled.trans (run_succ (n := 0) hfinish), rfl, hok, rfl, rfl, rfl, rfl, rfl, hcode,
    hcodeLen, hmeans, hother⟩

end Sys2Proof.Machine
end
